-- ==== Sys2Proof/Word.lean ====
section
/-! DEFINITION. The word types of MEMX-FE and the constants that rules R7, R8, R9 and R13 fix. -/

namespace Sys2Proof

/-- A byte is 8 bits (R14). -/
abbrev Byte := BitVec 8

/-- A Memory Address: `ADDR_W` = 16 bits (R8). -/
abbrev Addr := BitVec 16

/-- A command length: `LEN_W` = 16 bits (R9). -/
abbrev Len := BitVec 16

/-- A host command word, format `HCMD40` (R70, R71). -/
abbrev CmdWord := BitVec 40

/-- `PAGE_SIZE`, fixed (R7). -/
abbrev pageSize : Nat := 256

/-- `MAX_PAGES` (R13). -/
abbrev maxPages : Nat := 255

/-- The largest Write payload in bytes (R13). -/
abbrev maxWriteBytes : Nat := 65280

/-- The largest Read length in bytes (R13). -/
abbrev maxReadBytes : Nat := 65535

/-- The length of a write-enable frame in bytes (R13, R78). -/
abbrev weLength : Nat := 1

/-- The length of a write-page frame in bytes (R13, R78). -/
abbrev wpLength : Nat := 259

/-- The length of a set-read-address frame in bytes (R13, R78). -/
abbrev sraLength : Nat := 3

end Sys2Proof
end

