-- ==== Sys2Proof/Syntax.lean ====
section
/-! DEFINITION. The instructions of the opcode table: three host commands (R72) and three frames (R76),
the two coded forms they have (R70), and the names a decoder refuses with (R80, R154, R79). -/

namespace Sys2Proof

/-- One constructor per row of spec/opcode_table.json. A frame is an instruction of the block's sequencer:
the step that emits it (R96). -/
inductive Instr where
  /-- `INIT` (R112); it has no operand. -/
  | init
  /-- `WRITE` (R115): buffer-present bit, target address, length. -/
  | write (bp : Bool) (addr : Addr) (len : Len)
  /-- `READ` (R135): buffer-present bit, source address, byte count. -/
  | read (bp : Bool) (addr : Addr) (len : Len)
  /-- `FRAME_WE`, the write-enable frame (R91). -/
  | frameWe
  /-- `FRAME_WP`, the write-page frame (R92): target address and payload. -/
  | frameWp (addr : Addr) (data : List Byte)
  /-- `FRAME_SRA`, the set-read-address frame (R93): source address. -/
  | frameSra (addr : Addr)
  deriving DecidableEq, Repr

/-- The two encoding levels of 30_encoding.md: a 40-bit host command word, or a frame's byte sequence (R70). -/
inductive Coded where
  /-- A host command word, format `HCMD40`. -/
  | host (w : CmdWord)
  /-- A frame, byte 0 first. -/
  | frame (bytes : List Byte)
  deriving DecidableEq, Repr

/-- The refusals of R154. -/
inductive HostRefusal where
  /-- `RESERVED_OP`: a host command word with `OP` = 0b00 (R80). -/
  | reservedOp
  /-- `RESERVED_BITS`: a WRITE or READ word with `RSV` ≠ 0 (R80). -/
  | reservedBits
  /-- `STATUS_UNSET`: a host read of `STATUS` before any command has completed since reset (R22). -/
  | statusUnset
  deriving DecidableEq, Repr

/-- Why a byte sequence is no frame of the block (R78, R79). -/
inductive FrameRefusal where
  /-- There is no byte 0. -/
  | noOpcode
  /-- Byte 0 is none of 0x10, 0x12, 0x20 (R79). -/
  | unknownOpcode
  /-- There are fewer bytes than byte 0 gives the frame (R78). -/
  | tooShort
  /-- There are more bytes than byte 0 gives the frame (R78). -/
  | tooLong
  deriving DecidableEq, Repr

/-- Why a coded form decodes to no instruction. -/
inductive DecodeRefusal where
  /-- A refused host command word. -/
  | host (r : HostRefusal)
  /-- A refused frame. -/
  | frame (r : FrameRefusal)
  deriving DecidableEq, Repr

/-- A buffer operand of the textual form (R81): `null`, or a buffer's name. -/
inductive AsmBuf where
  /-- The word `null`. -/
  | null
  /-- A host buffer name, optionally with its size. -/
  | named (name : String) (size : Option Nat)
  deriving DecidableEq, Repr

/-- A line of the textual form (R81). There are no pseudo-instructions (R82). -/
inductive AsmLine where
  /-- `INIT` -/
  | init
  /-- `WRITE <addr16>, <buf>, <len16>` -/
  | write (addr : Addr) (buf : AsmBuf) (len : Len)
  /-- `READ <addr16>, <buf>, <len16>` -/
  | read (addr : Addr) (buf : AsmBuf) (len : Len)
  deriving DecidableEq, Repr

end Sys2Proof
end

