-- ==== Sys2Proof/WellFormed.lean ====
section
/-! DEFINITION. Which instructions are well formed. Every operand but one has the width its type gives it;
the payload of a write-page frame must be one page long. -/

namespace Sys2Proof

/-- A write-page frame carries exactly 256 payload bytes (R92); every other operand is well formed by its
type (R14: all values are unsigned and of fixed width; R56: any address is legal). -/
def Instr.wellFormed : Instr → Bool
  | .init => true
  | .write _ _ _ => true
  | .read _ _ _ => true
  | .frameWe => true
  | .frameWp _ data => data.length == pageSize
  | .frameSra _ => true

/-- The proposition that an instruction passes the check. -/
abbrev Instr.WellFormed (i : Instr) : Prop := i.wellFormed = true

end Sys2Proof
end

