-- ==== Sys2Proof/Decode.lean ====
section
/-! DEFINITION. Decoding and encoding, from 30_encoding.md and 40_frames.md: the fields of the host command
word (R71), the frame encoders (R91 to R93), the total decoders (R80, R78, R95), and the encoder. -/

namespace Sys2Proof

/-! ## Bit fields and byte order -/

/-- `A[15:8]` (R53, R77). -/
def addrHi (a : Addr) : Byte := a.extractLsb' 8 8

/-- `A[7:0]` (R53, R77). -/
def addrLo (a : Addr) : Byte := a.extractLsb' 0 8

/-- The address whose high byte comes first: `hi`×256 + `lo` (R53, R95). -/
def addrOfBytes (hi lo : Byte) : Addr := BitVec.ofNat 16 (hi.toNat * 256 + lo.toNat)

/-- Field `OP`, bits 1:0 (R71). -/
def opField (w : CmdWord) : BitVec 2 := w.extractLsb' 0 2

/-- Field `BP`, bit 2 (R71). -/
def bpField (w : CmdWord) : Bool := w.getLsbD 2

/-- Field `RSV`, bits 7:3 (R71). -/
def rsvField (w : CmdWord) : BitVec 5 := w.extractLsb' 3 5

/-- Field `ADDR`, bits 23:8 (R71). -/
def addrField (w : CmdWord) : Addr := w.extractLsb' 8 16

/-- Field `LEN`, bits 39:24 (R71). -/
def lenField (w : CmdWord) : Len := w.extractLsb' 24 16

/-! ## The frame encoders (R90) -/

/-- `EncWE()` (R91). -/
def encWE : List Byte := [0x10]

/-- `EncWP(A, D)` (R92). -/
def encWP (a : Addr) (d : List Byte) : List Byte := 0x12 :: addrHi a :: addrLo a :: d

/-- `EncSRA(A)` (R93). -/
def encSRA (a : Addr) : List Byte := [0x20, addrHi a, addrLo a]

/-- The frame's length in bytes from its byte 0 (R78); none for a first byte the block never emits (R79). -/
def frameLength (opcode : Byte) : Option Nat :=
  if opcode = 0x10 then some weLength
  else if opcode = 0x12 then some wpLength
  else if opcode = 0x20 then some sraLength
  else none

/-! ## Decoding -/

/-- Host command decode, total on every 40-bit word, in the order of R80. -/
def decodeHost (w : CmdWord) : Except HostRefusal Instr :=
  if opField w = 0b00 then .error .reservedOp
  else if opField w = 0b01 then .ok .init
  else if rsvField w ≠ 0 then .error .reservedBits
  else if opField w = 0b10 then .ok (.write (bpField w) (addrField w) (lenField w))
  else .ok (.read (bpField w) (addrField w) (lenField w))

/-- The first frame of a frame stream, with the bytes after it: byte 0 alone tells the length (R78). -/
def decodeStream : List Byte → Except FrameRefusal (Instr × List Byte)
  | [] => .error .noOpcode
  | opcode :: rest =>
    if opcode = 0x10 then .ok (.frameWe, rest)
    else if opcode = 0x12 then
      match rest with
      | hi :: lo :: d =>
        if d.length < pageSize then .error .tooShort
        else .ok (.frameWp (addrOfBytes hi lo) (d.take pageSize), d.drop pageSize)
      | _ => .error .tooShort
    else if opcode = 0x20 then
      match rest with
      | hi :: lo :: rest' => .ok (.frameSra (addrOfBytes hi lo), rest')
      | _ => .error .tooShort
    else .error .unknownOpcode

/-- The frame inverse of R95: a byte sequence that is exactly one frame. -/
def decodeFrame (bytes : List Byte) : Except FrameRefusal Instr :=
  match decodeStream bytes with
  | .ok (i, []) => .ok i
  | .ok (_, _ :: _) => .error .tooLong
  | .error e => .error e

/-- Decode of either coded form; it refuses by name. -/
def decode : Coded → Except DecodeRefusal Instr
  | .host w =>
    match decodeHost w with
    | .ok i => .ok i
    | .error e => .error (.host e)
  | .frame bytes =>
    match decodeFrame bytes with
    | .ok i => .ok i
    | .error e => .error (.frame e)

/-! ## Encoding -/

/-- The host command word of the given fields, `RSV` = 0: word value = `LEN` × 2^24 + `ADDR` × 2^8 +
`RSV` × 2^3 + `BP` × 2^2 + `OP` (R71). Irreducible for the elaborator, which would otherwise compute with the
unknown fields; the kernel evaluates it. -/
@[irreducible] def hostWord (op : BitVec 2) (bp : Bool) (addr : Addr) (len : Len) : CmdWord :=
  BitVec.ofNat 40 (len.toNat * 2 ^ 24 + addr.toNat * 2 ^ 8 + bp.toNat * 2 ^ 2 + op.toNat)

/-- The coded form of an instruction (R71, R76). INIT, whose bits 39:2 are ignored (R73), is encoded as
R81 assembles it, 0x0000000001. -/
def encode : Instr → Coded
  | .init => .host (hostWord 0b01 false 0 0)
  | .write bp addr len => .host (hostWord 0b10 bp addr len)
  | .read bp addr len => .host (hostWord 0b11 bp addr len)
  | .frameWe => .frame encWE
  | .frameWp addr data => .frame (encWP addr data)
  | .frameSra addr => .frame (encSRA addr)

/-- The width of a coded form in bits. -/
def Coded.width : Coded → Nat
  | .host _ => 40
  | .frame bytes => 8 * bytes.length

/-- The `BP` bit a buffer operand assembles to (R81). -/
def AsmBuf.present : AsmBuf → Bool
  | .null => false
  | .named _ _ => true

/-- The word a line of the textual form assembles to (R81). -/
def assemble : AsmLine → CmdWord
  | .init => 0x0000000001
  | .write addr buf len => hostWord 0b10 buf.present addr len
  | .read addr buf len => hostWord 0b11 buf.present addr len

/-! ## The opcode table's numbering -/

/-- The first `n` bytes of a number, least significant first. -/
def bytesOfNat : Nat → Nat → List Byte
  | 0, _ => []
  | n + 1, w => BitVec.ofNat 8 w :: bytesOfNat n (w / 256)

/-- The coded form a row of the opcode table stands for, from its bits as the table numbers them. A row of
40 bits is a host command word; any other row is a frame when its byte 0 is a frame opcode, and a host
command word given in part otherwise (no host command word that decodes has a frame opcode as its low
byte). -/
def codedOfTable (nbits w : Nat) : Coded :=
  match nbits == 40, frameLength (BitVec.ofNat 8 w) with
  | false, some n => .frame (bytesOfNat n w)
  | _, _ => .host (BitVec.ofNat 40 w)

/-- The instruction the decoder reads from an opcode-table word. -/
def decodeTableWord (nbits w : Nat) : Option Instr :=
  match decode (codedOfTable nbits w) with
  | .ok i => some i
  | .error _ => none

end Sys2Proof
end

