-- ==== Sys2Proof/Config.lean ====
section
/-! DEFINITION. The configuration parameters of rules R10 to R12 and the free values of the transport
(R60) and of the null-source run (R129). -/

namespace Sys2Proof

/-- The two-valued status of R17. -/
inductive Status where
  /-- Success. -/
  | ok
  /-- Failure; no richer error kind exists. -/
  | notOk
  deriving DecidableEq, Repr, Inhabited

/-- `BUF_CHECK`: which buffer-presence check Write and Read apply (R11). -/
inductive BufCheck where
  /-- The call proceeds only with a non-null buffer. -/
  | intended
  /-- The call proceeds only with a null buffer. -/
  | literal
  deriving DecidableEq, Repr

/-- `ADDR_POLICY`: the target address framed into page i of a Write (R12). -/
inductive AddrPolicy where
  /-- Every page uses the command address. -/
  | fixed
  /-- Page i uses the command address plus 256 × i, mod 2^16. -/
  | advance
  deriving DecidableEq, Repr

/-- The parameters that are not fixed by the source (R10, R11, R12; R36: no step writes them and reset
does not change them). `PAGE_SIZE`, `ADDR_W` and `LEN_W` are constants of `Word`. -/
structure Config where
  /-- `DEV_ADDR`, the device bus identifier passed to every transaction (R10). -/
  devAddr    : Byte
  /-- `BUF_CHECK` (R11). -/
  bufCheck   : BufCheck
  /-- `ADDR_POLICY` (R12). -/
  addrPolicy : AddrPolicy
  deriving DecidableEq, Repr

/-- The reference configuration (R10, R11, R12). -/
def Config.reference : Config :=
  { devAddr := 0x20, bufCheck := .intended, addrPolicy := .advance }

/-- Free value: the status of a `Transmit` (R60), at the draw counter. Log entry 3. -/
opaque Config.freeTxStatus : Nat → Status

/-- Free value: the status of a `Receive` (R60), at the draw counter. Log entry 3. -/
opaque Config.freeRxStatus : Nat → Status

/-- Free value: byte k of what a `Receive` delivers (R60, R140), at the draw counter and k. Log entry 3. -/
opaque Config.freeRxByte : Nat → Nat → Byte

/-- Free value: which of the two runs that R129 admits is taken, at the draw counter. Log entry 4. -/
opaque Config.freeNullEarly : Nat → Bool

end Sys2Proof
end

