-- ==== Sys2Proof/Machine/State.lean ====
section
/-! DEFINITION. The state of one MEMX-FE, its host and its transport, as plain data; the reasons a step can
stop; the state after reset. -/

namespace Sys2Proof.Machine

open Sys2Proof

/-- `SEQ`, the sequencer state (R24). -/
inductive Seq where
  /-- No command in progress; a command may be accepted. -/
  | idle
  /-- In a Write; the next step transmits the write-enable frame of page `PI`. -/
  | wrWe
  /-- In a Write; the next step transmits the write-page frame of page `PI`. -/
  | wrWp
  /-- In a Read; the next step transmits the set-read-address frame. -/
  | rdSra
  /-- In a Read; the next step performs the receive. -/
  | rdRx
  /-- A model fault was raised; no step is enabled. -/
  | faulted
  deriving DecidableEq, Repr

/-- The fault reasons of R153, each with what it records. -/
inductive FaultReason where
  /-- Code 1, raised by WRITE on a null source; records page index 0. -/
  | nullSource (page : BitVec 8)
  /-- Code 2, raised by READ on a null destination. -/
  | nullDest
  /-- Code 3, raised by WRITE on a source shorter than the page needs; records `PI`. -/
  | srcOverrun (page : BitVec 8)
  /-- Code 4, raised by READ on a destination shorter than `CL`; records `CL`. -/
  | dstOverrun (len : Len)
  deriving DecidableEq, Repr

/-- The three host operations, as a `Done` event names them. -/
inductive Op where
  | init
  | write
  | read
  deriving DecidableEq, Repr

/-- The events of the trace (R37). -/
inductive Event where
  /-- One transmit and the transport's answer. -/
  | tx (dev : Byte) (frame : List Byte) (status : Status)
  /-- One receive and the transport's answer. -/
  | rx (dev : Byte) (n : Nat) (status : Status) (bytes : List Byte)
  /-- The first INIT's hand-off of the register setup to the external collaborator. -/
  | extInitSetup
  /-- One command completed. -/
  | done (op : Op) (status : Status)
  /-- The block entered `FAULTED`. -/
  | faulted (reason : FaultReason)
  deriving DecidableEq, Repr

/-- The host's memory, in which its buffers lie: address and byte, addresses strictly rising, no entry equal
to what an unlisted address reads as (`Memory.wf`). -/
abbrev Memory := List Host.Cell

/-- A non-null buffer handle (R35): a finite byte sequence of the host's memory. Byte k of the buffer, for
k < `size`, is the byte at address `base` + k (log entry 5). -/
structure Handle where
  /-- Where the buffer's byte 0 lies in the host's memory. -/
  base : Nat
  /-- The buffer's size in bytes, `size(SRC)` or `size(DST)`. -/
  size : Nat
  deriving DecidableEq, Repr

/-- What the host, or whoever holds the reset, does between two steps of the block (log entry 11). -/
inductive HostAction where
  /-- The host presents a command word with its buffer handle (R32, R110). -/
  | present (w : CmdWord) (h : Handle)
  /-- A reset (R180). -/
  | reset
  /-- The host reads `STATUS` (R33, R154). -/
  | readStatus
  /-- The host writes one byte of its own memory (R185). -/
  | poke (a : Nat) (b : Byte)
  /-- The host does nothing: the block takes the next step. -/
  | yield
  deriving DecidableEq, Repr

/-- One answer of the transport to a `Receive` (R34): a status and the bytes it delivers. -/
structure RxAnswer where
  status : Status
  bytes  : List Byte
  deriving DecidableEq, Repr

/-- The state. Its first group is the tuple of R20; then the handles (R35), the trace (R37), the refusal mark
(R154), the configuration (R36), and what the model holds of the two other agents of R19. -/
structure State where
  /-- `INIT`, the Initialization Flag (R21). -/
  init   : Bool
  /-- `SEQ` (R24). -/
  seq    : Seq
  /-- `CA`, the latched command address (R26). -/
  ca     : Addr
  /-- `CL`, the latched command length (R27). -/
  cl     : Len
  /-- `BP`, the latched buffer-present bit (R28). -/
  bp     : Bool
  /-- `NP`, the page count of the current Write (R29). -/
  np     : BitVec 8
  /-- `PI`, the page index of the current Write (R30). -/
  pi     : BitVec 8
  /-- `WES`, the status of the write-enable transmit of the current page (R31). -/
  wes    : Status
  /-- `STATUS`: the status of the last completed command, or no value (R22). -/
  status : Option Status
  /-- `FAULT`: a fault reason, or none (R23). -/
  fault  : Option FaultReason
  /-- `SRC`, the source handle of a WRITE; none is null (R35). -/
  src    : Option Handle
  /-- `DST`, the destination handle of a READ; none is null (R35). -/
  dst    : Option Handle
  /-- The trace, oldest event first (R37). -/
  trace  : List Event
  /-- The refusal mark: the refusals of the run so far, oldest first; the mark is set when there is one (R154). -/
  mark   : List HostRefusal
  /-- The configuration (R36). No step writes it. -/
  cfg    : Config
  /-- The host's memory (R51). -/
  mem    : Memory
  /-- The command word now presented on the command interface, if any (R32). -/
  cmd    : Option CmdWord
  /-- The buffer handle presented with it (R32); a word with `BP` = 0 has a null handle whatever stands here. -/
  hnd    : Handle
  /-- What the host does next, soonest first; the block moves when it is empty (R19). -/
  host   : List HostAction
  /-- The transport's next answers to `Transmit`; when it is empty the answer is a free value (R60). -/
  txAns  : List Status
  /-- The transport's next answers to `Receive`; when it is empty the answer is a free value (R60). -/
  rxAns  : List RxAnswer
  /-- Whether the next null source faults at its write-enable step; when it is empty, a free value (R129). -/
  nullAns : List Bool
  /-- The model's own counter of draws, to which the free values are applied. -/
  draws  : Nat
  deriving DecidableEq, Repr

/-- Why the machine stops with a fault. -/
inductive Fault where
  /-- Raised by a step whose turn is the block's while `SEQ` = `FAULTED`, with what `FAULT` holds: no step is
  enabled there (R152; log entry 12). Safe: the hardware goes on only after a reset. -/
  | faulted (reason : Option FaultReason)
  deriving DecidableEq, Repr

/-- Why the machine gives an instruction no meaning. -/
inductive Refusal where
  /-- Raised by an arm of `exec` that has no meaning yet. Safe. -/
  | notModelled (mnemonic : String)
  /-- Raised by FRAME_WP on a payload that is not 256 bytes long: R92 calls it no legal call (log entry 14). No
  step raises it. Safe. -/
  | illegalPayload (length : Nat)
  deriving DecidableEq, Repr

/-- The state after power-on (R42): Uninitialized, idle, no fault, no status, an empty trace, nothing presented.
The reset values that R42 leaves unspecified are zero (DESIGN CHOICE, unsafe; log entry 1); the configuration is
the reference one (DESIGN CHOICE; log entry 2). -/
def State.reset : State :=
  { init := false, seq := .idle, ca := 0, cl := 0, bp := false, np := 0, pi := 0, wes := .ok,
    status := none, fault := none, src := none, dst := none, trace := [], mark := [],
    cfg := Config.reference, mem := [], cmd := none, hnd := { base := 0, size := 0 }, host := [],
    txAns := [], rxAns := [], nullAns := [], draws := 0 }

end Sys2Proof.Machine
end

