-- ==== Sys2Proof/Machine/Memory.lean ====
section
/-! DEFINITION. The host's memory: one byte read and written, and runs of bytes, over the canonical list. -/

namespace Sys2Proof.Machine

open Sys2Proof

/-- What an unlisted address of the host's memory reads as (DESIGN CHOICE, unsafe; log entry 6). -/
def Memory.unlisted : Byte := 0

/-- The byte at an address. -/
def Memory.get (m : Memory) (a : Nat) : Byte :=
  match m with
  | [] => Memory.unlisted
  | (a', b) :: rest => if a = a' then b else Memory.get rest a

/-- One byte written, keeping the canonical form. -/
def Memory.set (m : Memory) (a : Nat) (b : Byte) : Memory :=
  match m with
  | [] => if b = Memory.unlisted then [] else [(a, b)]
  | (a', b') :: rest =>
    if a < a' then
      if b = Memory.unlisted then (a', b') :: rest else (a, b) :: (a', b') :: rest
    else if a = a' then
      if b = Memory.unlisted then rest else (a, b) :: rest
    else (a', b') :: Memory.set rest a b

/-- The canonical form from a lowest admissible address on. -/
def Memory.wfFrom (lo : Nat) (m : Memory) : Bool :=
  match m with
  | [] => true
  | (a, b) :: rest => decide (lo ≤ a) && decide (b ≠ Memory.unlisted) && Memory.wfFrom (a + 1) rest

/-- The canonical form: addresses strictly rising, no entry equal to what an unlisted address reads as. -/
def Memory.wf (m : Memory) : Bool := Memory.wfFrom 0 m

/-- `n` bytes from address `a` on, in increasing address order (R54). -/
def Memory.readBytes (m : Memory) (a : Nat) : Nat → List Byte
  | 0 => []
  | n + 1 => m.get a :: m.readBytes (a + 1) n

/-- A byte sequence written from address `a` on, in increasing address order (R54). -/
def Memory.writeBytes (m : Memory) (a : Nat) : List Byte → Memory
  | [] => m
  | b :: rest => (m.writeBytes (a + 1) rest).set a b

end Sys2Proof.Machine
end

