-- ==== Sys2Proof/Machine/Operands.lean ====
section
/-! DEFINITION. Operand assembly (R77): page count, source offset, target address of a page, and the bytes a
handle names (R35, `MemRead` and `MemWrite` of R16). -/

namespace Sys2Proof.Machine

open Sys2Proof

/-- `NP` = `LEN[15:8]` (R77, R121). -/
def pageCount (len : Len) : BitVec 8 := len.extractLsb' 8 8

/-- `CL[7:0]` (R57, R118). -/
def lengthLow (len : Len) : BitVec 8 := len.extractLsb' 0 8

/-- The source offset of page i, i × 256, under both address policies (R124). -/
def srcOffset (i : BitVec 8) : Nat := i.toNat * pageSize

/-- `PageAddr(CA, i)` (R123). -/
def pageAddr (policy : AddrPolicy) (ca : Addr) (i : BitVec 8) : Addr :=
  match policy with
  | .fixed => ca
  | .advance => ca + BitVec.ofNat 16 (i.toNat * pageSize)

/-- Where a handle's byte 0 lies; a null handle names no byte, and no access is made through one (R129, R142). -/
def handleBase (h : Option Handle) : Nat :=
  match h with
  | some h => h.base
  | none => 0

/-- `size(SRC)`, `size(DST)` (R35); a null handle has no bytes. -/
def handleSize (h : Option Handle) : Nat :=
  match h with
  | some h => h.size
  | none => 0

/-- `MemRead(off, n)` through a handle (R16). -/
def memRead (m : Memory) (h : Option Handle) (off n : Nat) : List Byte :=
  m.readBytes (handleBase h + off) n

/-- `MemWrite(off, len(v), v)` through a handle (R16). -/
def memWrite (m : Memory) (h : Option Handle) (off : Nat) (v : List Byte) : Memory :=
  m.writeBytes (handleBase h + off) v

/-- The target address of the page the sequencer is at: `PageAddr(CA, PI)` (R125). -/
def State.target (s : State) : Addr := pageAddr s.cfg.addrPolicy s.ca s.pi

/-- The payload of the page the sequencer is at, sampled from `SRC` now: `MemRead(PI*256, 256)` (R125, R35). -/
def State.payload (s : State) : List Byte := memRead s.mem s.src (srcOffset s.pi) pageSize

end Sys2Proof.Machine
end

