-- ==== Sys2Proof/Machine/Flags.lean ====
section
/-! DEFINITION. The statuses and the conditions computed from the state: the preconditions (R116, R136), the
pair status (R126), the fault conditions (R129, R130, R142, R143), and what the host can read (R33). -/

namespace Sys2Proof.Machine

open Sys2Proof

/-- The bit a status is stored as: `Ok` = 0, `NotOk` = 1 (R17). -/
def statusBit (st : Status) : BitVec 1 :=
  match st with
  | .ok => 0
  | .notOk => 1

/-- The code of a fault reason (R153). -/
def FaultReason.code : FaultReason → Nat
  | .nullSource _ => 1
  | .nullDest => 2
  | .srcOverrun _ => 3
  | .dstOverrun _ => 4

/-- `BufOk(BP)` (R119). -/
def bufOk (check : BufCheck) (bp : Bool) : Bool :=
  match check with
  | .intended => bp
  | .literal => !bp

/-- The Write length check (R118). -/
def writeLenOk (len : Len) : Bool := len != 0 && lengthLow len == 0

/-- `WritePre()` on the latched operands (R116, R114). -/
def State.writePre (s : State) : Bool := s.init && bufOk s.cfg.bufCheck s.bp && writeLenOk s.cl

/-- `ReadPre()` on the latched operands (R136, R114). -/
def State.readPre (s : State) : Bool := s.init && bufOk s.cfg.bufCheck s.bp && s.cl != 0

/-- The status of a write-enable and write-page pair (R126). -/
def pairStatus (we wp : Status) : Status :=
  match we, wp with
  | .ok, .ok => .ok
  | _, _ => .notOk

/-- Whether the page the sequencer is at is the Write's last: `PI` + 1 = `NP` (R125). -/
def State.lastPage (s : State) : Bool := s.pi.toNat + 1 == s.np.toNat

/-- Log entry 13. Whether R129 applies at the `WR_WE` step, where it admits two runs: page 0 of a Write that the literal
check let through with a null source. -/
def State.nullSourceOpen (s : State) : Bool := s.cfg.bufCheck == .literal && !s.bp && s.pi == 0

/-- Whether the source is too short for the page the sequencer is at (R130). -/
def State.srcShort (s : State) : Bool := decide (handleSize s.src < srcOffset s.pi + pageSize)

/-- Whether the destination is too short for the Read (R143). -/
def State.dstShort (s : State) : Bool := decide (handleSize s.dst < s.cl.toNat)

/-! ## What the host can read (R33) -/

/-- `READY` = (`SEQ` = `IDLE`). -/
def State.ready (s : State) : Bool := s.seq == .idle

/-- The host's read of `STATUS`; refused while it has no value (R22, R154). -/
def State.hostReadStatus (s : State) : Except HostRefusal Status :=
  match s.status with
  | some st => .ok st
  | none => .error .statusUnset

/-- The host's read of `FAULT`. -/
def State.hostReadFault (s : State) : Option FaultReason := s.fault

end Sys2Proof.Machine
end

