-- ==== Sys2Proof/Machine/Ops.lean ====
section
/-! DEFINITION. The shared operations of 41_commands.md and 60_exceptions.md: emitting an event, the two
transport calls (R34), completion (R145), taking a fault (R152), reset, its only return (R180), operand
latching (R111), and turning a command away (R110). -/

namespace Sys2Proof.Machine

open Sys2Proof

/-- `emit E` (R16, R37). -/
def State.emit (s : State) (e : Event) : State := { s with trace := s.trace ++ [e] }

/-! ## The transport's answers: draws under no law (R60) -/

/-- The status the transport answers the next `Transmit` with. -/
def State.txAnswer (s : State) : Status :=
  match s.txAns with
  | st :: _ => st
  | [] => Config.freeTxStatus s.draws

/-- The answer to a `Transmit` taken. -/
def State.tookTx (s : State) : State := { s with txAns := s.txAns.tail, draws := s.draws + 1 }

/-- The status the transport answers the next `Receive` with. -/
def State.rxStatus (s : State) : Status :=
  match s.rxAns with
  | r :: _ => r.status
  | [] => Config.freeRxStatus s.draws

/-- `n` delivered bytes, from byte k on: those the answer holds, and free ones past its end (R60: a short
transfer is not detected, and the bytes are any bytes). -/
def deliver (draw k : Nat) (bytes : List Byte) : Nat → List Byte
  | 0 => []
  | n + 1 =>
    match bytes with
    | b :: rest => b :: deliver draw (k + 1) rest n
    | [] => Config.freeRxByte draw k :: deliver draw (k + 1) [] n

/-- The `n` bytes the next `Receive` delivers. -/
def State.rxBytes (s : State) (n : Nat) : List Byte :=
  match s.rxAns with
  | r :: _ => deliver s.draws 0 r.bytes n
  | [] => deliver s.draws 0 [] n

/-- The answer to a `Receive` taken. -/
def State.tookRx (s : State) : State := { s with rxAns := s.rxAns.tail, draws := s.draws + 1 }

/-- Which of the two runs of R129 is taken: true for the fault at the `WR_WE` step. -/
def State.nullEarly (s : State) : Bool :=
  match s.nullAns with
  | b :: _ => b
  | [] => Config.freeNullEarly s.draws

/-- The choice between the two runs of R129 taken. -/
def State.tookNull (s : State) : State := { s with nullAns := s.nullAns.tail, draws := s.draws + 1 }

/-! ## The transport calls (R34), each with its event (R37) -/

/-- `Transmit(DEV_ADDR, frame)`: the answer is `s.txAnswer` (R94). -/
def State.transmit (s : State) (frame : List Byte) : State :=
  s.tookTx.emit (.tx s.cfg.devAddr frame s.txAnswer)

/-- `Receive(DEV_ADDR, n)`: the answer is `s.rxStatus` and `s.rxBytes n`. -/
def State.receive (s : State) (n : Nat) : State :=
  s.tookRx.emit (.rx s.cfg.devAddr n s.rxStatus (s.rxBytes n))

/-! ## Completion, faults, reset -/

/-- Completion of a command (R145). -/
def State.complete (s : State) (op : Op) (st : Status) : State :=
  { s.emit (.done op st) with status := some st, seq := .idle }

/-- `raise Fault(r)`, fault entry (R152). -/
def State.raise (s : State) (r : FaultReason) : State :=
  { s.emit (.faulted r) with fault := some r, seq := .faulted }

/-- Reset, the only exit from `FAULTED` (R180, R160): every register takes its value of R42, the command in
flight is abandoned, nothing is emitted, and the host's memory, the transport, the trace, the configuration
and the refusal mark stay. The presented command is withdrawn (DEDUCED, unsafe; log entry 8); a reserved word
so withdrawn was never decoded and sets no mark (DESIGN CHOICE, unsafe; log entry 17). -/
def State.doReset (s : State) : State :=
  { s with
    init := State.reset.init, seq := State.reset.seq, ca := State.reset.ca, cl := State.reset.cl,
    bp := State.reset.bp, np := State.reset.np, pi := State.reset.pi, wes := State.reset.wes,
    status := State.reset.status, fault := State.reset.fault, src := State.reset.src,
    dst := State.reset.dst, cmd := none }

/-! ## Acceptance (R110, R111) -/

/-- The handle the host presents with a command: null when `BP` = 0 (R111, R35). -/
def State.presentedHandle (s : State) (bp : Bool) : Option Handle := if bp then some s.hnd else none

/-- The presented command taken off the command interface. -/
def State.accept (s : State) : State := { s with cmd := none }

/-- Operand latching of a WRITE (R111). -/
def State.latchWrite (s : State) (bp : Bool) (addr : Addr) (len : Len) : State :=
  { s.accept with ca := addr, cl := len, bp := bp, src := s.presentedHandle bp }

/-- Operand latching of a READ (R111). -/
def State.latchRead (s : State) (bp : Bool) (addr : Addr) (len : Len) : State :=
  { s.accept with ca := addr, cl := len, bp := bp, dst := s.presentedHandle bp }

/-- An instruction whose sequencer state is not this one: it is not taken and changes nothing (R110: a command
presented while the block is busy is held; R96: no other step emits the frame); in `FAULTED` no step is enabled
(R152). DESIGN CHOICE, safe; log entry 9. -/
def State.held (s : State) : Host.Outcome State Fault Refusal :=
  match s.seq with
  | .faulted => .fault (.faulted s.fault)
  | .idle => .next s
  | .wrWe => .next s
  | .wrWp => .next s
  | .rdSra => .next s
  | .rdRx => .next s

end Sys2Proof.Machine
end

