-- ==== Sys2Proof/Machine/Commands.lean ====
section
/-! DEFINITION. The host-command family: the acceptance steps of INIT (R112), WRITE (R115) and READ (R135). -/

namespace Sys2Proof.Machine

open Sys2Proof

/-- The first INIT hands the register setup to the external collaborator and sets `INIT`; a later one does
neither (R113). -/
def State.setUp (s : State) : State :=
  if s.init then s else { s.emit .extInitSetup with init := true }

/-- INIT: one step, accepted in `IDLE`; it always completes `Ok` (R112). -/
def execInit (s : State) : Host.Outcome State Fault Refusal :=
  match s.seq with
  | .idle => .next (s.accept.setUp.complete .init .ok)
  | _ => s.held

/-- WRITE, the acceptance step: the Write starts (R120), or its failed precondition completes it (R117). The
steps that follow are FRAME_WE and FRAME_WP. -/
def execWrite (bp : Bool) (addr : Addr) (len : Len) (s : State) : Host.Outcome State Fault Refusal :=
  match s.seq with
  | .idle =>
    let t := s.latchWrite bp addr len
    .next (if t.writePre then { t with np := pageCount len, pi := 0, seq := .wrWe } else t.complete .write .notOk)
  | _ => s.held

/-- READ, the acceptance step (R135, R136). The steps that follow are FRAME_SRA and the receive. -/
def execRead (bp : Bool) (addr : Addr) (len : Len) (s : State) : Host.Outcome State Fault Refusal :=
  match s.seq with
  | .idle =>
    let t := s.latchRead bp addr len
    .next (if t.readPre then { t with seq := .rdSra } else t.complete .read .notOk)
  | _ => s.held

end Sys2Proof.Machine
end

