-- ==== Sys2Proof/Machine/Frames.lean ====
section
/-! DEFINITION. The frame family: the sequencer steps that emit the three frames (R96), and the receive step
that ends a Read (R139). -/

namespace Sys2Proof.Machine

open Sys2Proof

/-- The write-enable transmit of the `WR_WE` step (R122); it goes on whatever the answer is. -/
def State.sendWe (s : State) : State :=
  { s.transmit encWE with wes := s.txAnswer, seq := .wrWp }

/-- FRAME_WE: the `WR_WE` step (R122). Where R129 applies it has two runs, and a draw chooses. -/
def execFrameWe (s : State) : Host.Outcome State Fault Refusal :=
  match s.seq with
  | .wrWe =>
    .next (if s.nullSourceOpen then
        (if s.nullEarly then s.tookNull.raise (.nullSource 0) else s.tookNull.sendWe)
      else s.sendWe)
  | _ => s.held

/-- The write-page transmit of the `WR_WP` step, with what follows it (R125, R126, R127). -/
def State.sendWp (s : State) (addr : Addr) (data : List Byte) : State :=
  let t := s.transmit (encWP addr data)
  if s.lastPage then t.complete .write (pairStatus s.wes s.txAnswer)
  else { t with pi := s.pi + 1, seq := .wrWe }

/-- FRAME_WP: the `WR_WP` step (R125), the first fault that applies before the transmit (R156). -/
def execFrameWp (addr : Addr) (data : List Byte) (s : State) : Host.Outcome State Fault Refusal :=
  match s.seq with
  | .wrWp =>
    if data.length ≠ pageSize then .refused (.illegalPayload data.length)
    else
      .next (if !s.bp then s.raise (.nullSource 0)
        else if s.srcShort then s.raise (.srcOverrun s.pi)
        else s.sendWp addr data)
  | _ => s.held

/-- FRAME_SRA: the `RD_SRA` step (R137); a failed address selection ends the Read (R138). -/
def execFrameSra (addr : Addr) (s : State) : Host.Outcome State Fault Refusal :=
  match s.seq with
  | .rdSra =>
    let t := s.transmit (encSRA addr)
    .next (if s.txAnswer = .notOk then t.complete .read .notOk else { t with seq := .rdRx })
  | _ => s.held

/-- The receive, with the bytes written to `DST` whatever its status (R139, R140, R141). -/
def State.takeRx (s : State) : State :=
  let t := s.receive s.cl.toNat
  { t with mem := memWrite s.mem s.dst 0 (s.rxBytes s.cl.toNat) }.complete .read s.rxStatus

/-- The `RD_RX` step (R139), the first fault that applies before the receive (R156). It emits no frame and so
has no row in the opcode table: it is the last step of a READ. -/
def receiveStep (s : State) : State :=
  if !s.bp then s.raise .nullDest
  else if s.dstShort then s.raise (.dstOverrun s.cl)
  else s.takeRx

end Sys2Proof.Machine
end

