-- ==== Sys2Proof/Machine/Dispatch.lean ====
section
/-! DEFINITION. One arm per constructor of Instr. -/

namespace Sys2Proof.Machine

def exec (i : Instr) (s : State) : Host.Outcome State Fault Refusal :=
  match i with
  | .init => Sys2Proof.Machine.execInit s
  | .write bp addr len => Sys2Proof.Machine.execWrite bp addr len s
  | .read bp addr len => Sys2Proof.Machine.execRead bp addr len s
  | .frameWe => Sys2Proof.Machine.execFrameWe s
  | .frameWp addr data => Sys2Proof.Machine.execFrameWp addr data s
  | .frameSra addr => Sys2Proof.Machine.execFrameSra addr s

end Sys2Proof.Machine
end

