-- ==== Sys2Proof/Machine/Block.lean ====
section
/-! DEFINITION. One step of the whole: whose turn it is, the host's steps (R19, R32, R33, R180, R185), and the
block's step, which selects its instruction (R25, R110). -/

namespace Sys2Proof.Machine

open Sys2Proof

/-- The state in which the block takes the next step, when the next step is the block's: the host has nothing
to do, yields, or is held because its last command is still presented (R110; DESIGN CHOICE, safe; log entry 11). -/
def blocksTurn (s : State) : Option State :=
  match s.host with
  | [] => some s
  | .yield :: rest => some { s with host := rest }
  | .present _ _ :: _ => if s.cmd.isSome then some s else none
  | .reset :: _ => none
  | .readStatus :: _ => none
  | .poke _ _ :: _ => none

/-- A refusal sets the refusal mark, which is kept for the whole run (R154). -/
def State.refuse (s : State) (r : HostRefusal) : State := { s with mark := s.mark ++ [r] }

/-- One action of the host's. -/
def hostAct (a : HostAction) (s : State) : State :=
  match a with
  | .present w h => { s with cmd := some w, hnd := h }
  | .reset => s.doReset
  | .readStatus => if s.status.isNone then s.refuse .statusUnset else s
  | .poke a b => { s with mem := s.mem.set a b }
  | .yield => s

/-- The host's step: it does its next action. -/
def hostStep (s : State) : State :=
  match s.host with
  | [] => s
  | a :: rest => hostAct a { s with host := rest }

/-- The presented word taken in `IDLE`: a word that decodes is accepted; a refused word is not accepted, sets
the refusal mark and is withdrawn (R110, R154; DEDUCED, log entry 7); with no word the block waits (R168). A word is
decoded here and nowhere else, so a reserved word presented while the block is busy or `FAULTED` sets the mark only
once the block is in `IDLE` (DESIGN CHOICE, unsafe; log entry 17). -/
def idleStep (s : State) : Host.Outcome State Fault Refusal :=
  match s.cmd with
  | none => .next s
  | some w =>
    match decodeHost w with
    | .ok i => exec i s
    | .error r => .next (s.accept.refuse r)

/-- The block's step: `SEQ` and `PI` play the part of a program counter and select it (R25). -/
def blockStep (s : State) : Host.Outcome State Fault Refusal :=
  match s.seq with
  | .idle => idleStep s
  | .wrWe => exec .frameWe s
  | .wrWp => exec (.frameWp s.target s.payload) s
  | .rdSra => exec (.frameSra s.ca) s
  | .rdRx => .next (receiveStep s)
  | .faulted => .fault (.faulted s.fault)

/-- One step of the machine. -/
def wholeStep (s : State) : Host.Outcome State Fault Refusal :=
  match blocksTurn s with
  | some t => blockStep t
  | none => .next (hostStep s)

/-- The state set up so that the very next step runs the given instruction: a host command is presented in
`IDLE`; a frame is put in the sequencer state that emits it, with the operands it is formed from. -/
def placeCoded (s : State) (c : Coded) : State :=
  match c with
  | .host w => { s with host := [], fault := none, seq := .idle, cmd := some w }
  | .frame bytes =>
    match decodeFrame bytes with
    | .ok (.frameWp addr data) =>
      { s with
        host := [], fault := none, seq := .wrWp, ca := addr, np := 1, pi := 0, bp := true,
        src := some { base := 0, size := pageSize }, mem := s.mem.writeBytes 0 data }
    | .ok (.frameSra addr) => { s with host := [], fault := none, seq := .rdSra, ca := addr }
    | _ => { s with host := [], fault := none, seq := .wrWe, np := 1, pi := 0, bp := true }

end Sys2Proof.Machine
end

