-- ==== Sys2Proof/Machine/Step.lean ====
section
/-! DEFINITION. The step, and the placing of an opcode-table word where the next step runs it. -/

namespace Sys2Proof.Machine

open Sys2Proof

/-- One step of the machine. -/
def step (s : State) : Host.Outcome State Fault Refusal := wholeStep s

/-- `k` steps, stopping at the first fault or refusal: the host interface's run, over this machine. -/
def steps : Nat → State → Host.Outcome State Fault Refusal
  | 0, s => .next s
  | k + 1, s =>
    match step s with
    | .next t => steps k t
    | .fault f => .fault f
    | .refused r => .refused r

/-- `s` with an opcode-table word placed so that the next step runs it (log entry 10). -/
def State.withFetchWord (s : State) (nbits w : Nat) : State := placeCoded s (codedOfTable nbits w)

end Sys2Proof.Machine
end

