-- ==== Sys2Proof/Safety.lean ====
section
/-! DEFINITION. The terms in which claims speak of runs: legal frames (R95), the invariants of the sequencer,
the end of a run (R192), what a state shows (R42), and how far a command is from its end (R163). -/

namespace Sys2Proof.Machine

open Sys2Proof

/-- Whether an event is a transport transaction (R34). -/
def Event.isTransaction : Event → Bool
  | .tx _ _ _ => true
  | .rx _ _ _ _ => true
  | .extInitSetup => false
  | .done _ _ => false
  | .faulted _ => false

/-- Whether an event is a fault entry (R37, R152). -/
def Event.isFault : Event → Bool
  | .tx _ _ _ => false
  | .rx _ _ _ _ => false
  | .extInitSetup => false
  | .done _ _ => false
  | .faulted _ => true

/-- Whether the run of a state has reached `FAULTED`, now or before a reset: the trace, which nothing rewrites
(R37), shows every fault entry. -/
def State.reachedFaulted (s : State) : Bool := s.trace.any Event.isFault

/-- A frame the block may emit: its bytes decode to a well-formed instruction and are that instruction's
encoding (R95). -/
def FrameLegal (f : List Byte) : Prop :=
  ∃ i : Instr, i.WellFormed ∧ decodeFrame f = .ok i ∧ encode i = .frame f

/-- An event the block may emit under a configuration: a transmit sends a legal frame, and every transaction
goes to `DEV_ADDR` and has its width (R58, R94, R95). -/
def EventLegal (cfg : Config) : Event → Prop
  | .tx dev f _ => dev = cfg.devAddr ∧ FrameLegal f
  | .rx dev n _ bytes => dev = cfg.devAddr ∧ bytes.length = n ∧ 1 ≤ n ∧ n ≤ maxReadBytes
  | .extInitSetup => True
  | .done _ _ => True
  | .faulted _ => True

/-- `FAULT` ≠ `none` holds exactly when `SEQ` = `FAULTED` (R23). -/
def FaultInv (s : State) : Prop := s.fault ≠ none ↔ s.seq = .faulted

/-- What holds in the middle of a Write (R29, R30, R116, R120, R121): its precondition, `NP` from `CL`, `PI`
below `NP`, and a source handle that is null exactly when `BP` = 0; with a null source the first page is never
left (R129). -/
def WriteInv (s : State) : Prop :=
  s.seq = .wrWe ∨ s.seq = .wrWp →
    s.writePre = true ∧ s.np = pageCount s.cl ∧ s.pi < s.np ∧ s.src.isSome = s.bp ∧
      (s.bp = false → s.pi = 0)

/-- What holds in the middle of a Read (R136): its precondition, and a destination handle that is null exactly
when `BP` = 0. -/
def ReadInv (s : State) : Prop :=
  s.seq = .rdSra ∨ s.seq = .rdRx → s.readPre = true ∧ s.dst.isSome = s.bp

/-- The invariant of the machine. -/
structure Inv (s : State) : Prop where
  fault : FaultInv s
  write : WriteInv s
  read  : ReadInv s
  mem   : s.mem.wf = true

/-- A run in which nothing was refused and no fault was raised at any point (R152, R154). -/
def State.Clean (s : State) : Prop := s.fault = none ∧ s.reachedFaulted = false ∧ s.mark = []

/-- Whether an action presents a command. -/
def HostAction.presents : HostAction → Bool
  | .present _ _ => true
  | .reset => false
  | .readStatus => false
  | .poke _ _ => false
  | .yield => false

/-- A run ends well (R192): `IDLE`, no fault, and no further command presented; and the run has not reached
`FAULTED` at any point, a reset after it notwithstanding (R152, R192). -/
def State.EndedWell (s : State) : Prop :=
  s.seq = .idle ∧ s.fault = none ∧ s.cmd = none ∧ s.host.all (fun a => !a.presents) = true ∧
    s.reachedFaulted = false

/-- The state with the registers that are written before they are next read blanked: what R42 says of the
registers it leaves unspecified, carried through a command. Nothing is blanked that a later step of the command
in flight reads. -/
def State.live (s : State) : State :=
  let z := State.reset
  match s.seq with
  | .idle => { s with ca := z.ca, cl := z.cl, bp := z.bp, np := z.np, pi := z.pi, wes := z.wes, src := z.src, dst := z.dst }
  | .faulted => { s with ca := z.ca, cl := z.cl, bp := z.bp, np := z.np, pi := z.pi, wes := z.wes, src := z.src, dst := z.dst }
  | .wrWe => { s with wes := z.wes, dst := z.dst }
  | .wrWp => { s with dst := z.dst }
  | .rdSra => { s with np := z.np, pi := z.pi, wes := z.wes, src := z.src }
  | .rdRx => { s with ca := z.ca, np := z.np, pi := z.pi, wes := z.wes, src := z.src }

/-- An outcome with its next state seen through `State.live`. -/
def liveOutcome : Host.Outcome State Fault Refusal → Host.Outcome State Fault Refusal
  | .next s => .next s.live
  | .fault r => .fault r
  | .refused r => .refused r

/-- The block steps a command still needs at most before the block is in `IDLE` or `FAULTED`. -/
def State.stepsLeft (s : State) : Nat :=
  match s.seq with
  | .idle => 0
  | .faulted => 0
  | .wrWe => 2 * (s.np.toNat - s.pi.toNat)
  | .wrWp => 2 * (s.np.toNat - s.pi.toNat) - 1
  | .rdSra => 2
  | .rdRx => 1

/-- The answer the transport gives to the k-th `Transmit` from this state on, as long as nothing else is drawn. -/
def State.txAnswerAt (s : State) (k : Nat) : Status :=
  match s.txAns[k]? with
  | some st => st
  | none => Config.freeTxStatus (s.draws + k)

/-- The two transmits of page i of the Write of a state: the pair of R128. -/
def State.pageEvents (s : State) (i : Nat) : List Event :=
  [.tx s.cfg.devAddr encWE (s.txAnswerAt (2 * i)),
    .tx s.cfg.devAddr
      (encWP (pageAddr s.cfg.addrPolicy s.ca (BitVec.ofNat 8 i)) (memRead s.mem s.src (i * pageSize) pageSize))
      (s.txAnswerAt (2 * i + 1))]

/-- The transmits of the first n pages of the Write of a state, in the order of R128. -/
def State.writeEvents (s : State) (n : Nat) : List Event := (List.range n).flatMap s.pageEvents

end Sys2Proof.Machine
end

