-- ==== Sys2Proof/Certificates/Slice0/Obligations.lean ====
section
/-! DEFINITION. The statements, from the numbered rules of spec/. -/

open Sys2Proof Sys2Proof.Machine

/-! ## Encoding -/

/-- Decoding an encoded well-formed instruction gives it back, host commands and frames alike, at every value
of every operand (30_encoding.md, 40_frames.md). -/
def Obligations.DecodeOfEncodeIsTheInstruction : Prop :=
  ∀ i : Instr, i.WellFormed → decode (encode i) = .ok i

/-- The other direction: a coded form that decodes is the encoding of what it decodes to, but for the ignored
bits of INIT (R73). So no two words stand for one WRITE or READ, and no two byte sequences for one frame. -/
def Obligations.EncodeOfDecodeIsTheWord : Prop :=
  ∀ (c : Coded) (i : Instr), decode c = .ok i → i.WellFormed ∧ (i ≠ .init → encode i = c)

/-- The fields of the host command word and its value, and that `RSV` is 0 in a WRITE or READ (R71). -/
def Obligations.HostWordLayout : Prop :=
  ∀ w : CmdWord,
    (opField w).toNat = w.toNat % 4 ∧ (bpField w).toNat = w.toNat / 4 % 2 ∧ (rsvField w).toNat = w.toNat / 8 % 32 ∧
      (addrField w).toNat = w.toNat / 2 ^ 8 % 2 ^ 16 ∧ (lenField w).toNat = w.toNat / 2 ^ 24 % 2 ^ 16 ∧
      w.toNat = (lenField w).toNat * 2 ^ 24 + (addrField w).toNat * 2 ^ 8 + (rsvField w).toNat * 2 ^ 3 +
        (bpField w).toNat * 2 ^ 2 + (opField w).toNat ∧
      ∀ i, decodeHost w = .ok i → i ≠ .init → rsvField w = 0

/-- Host command decode is total, in the order of R80; the fields are read out of the word as a number. -/
def Obligations.HostDecodeInOrder : Prop :=
  ∀ w : CmdWord,
    (w.toNat % 4 = 0 → decodeHost w = .error .reservedOp) ∧
    (w.toNat % 4 = 1 → decodeHost w = .ok .init) ∧
    (2 ≤ w.toNat % 4 → w.toNat / 8 % 32 ≠ 0 → decodeHost w = .error .reservedBits) ∧
    (w.toNat % 4 = 2 → w.toNat / 8 % 32 = 0 →
      decodeHost w = .ok (.write (w.toNat / 4 % 2 == 1) (BitVec.ofNat 16 (w.toNat / 2 ^ 8)) (BitVec.ofNat 16 (w.toNat / 2 ^ 24)))) ∧
    (w.toNat % 4 = 3 → w.toNat / 8 % 32 = 0 →
      decodeHost w = .ok (.read (w.toNat / 4 % 2 == 1) (BitVec.ofNat 16 (w.toNat / 2 ^ 8)) (BitVec.ofNat 16 (w.toNat / 2 ^ 24))))

/-- The worked encodings of R75: each call is encoded as its word, and the word decodes to the call. -/
def Obligations.WorkedWordsDecode : Prop :=
  encode .init = .host 0x0000000001 ∧ decodeHost 0x0000000001 = .ok .init ∧
  encode (.write true 0x0100 0x0200) = .host 0x0200010006 ∧ decodeHost 0x0200010006 = .ok (.write true 0x0100 0x0200) ∧
  encode (.read true 0x0050 0x000A) = .host 0x000A005007 ∧ decodeHost 0x000A005007 = .ok (.read true 0x0050 0x000A)

/-- The frame formats, byte by byte, with the address big-endian (R76, R53). -/
def Obligations.FramesAreBitExact : Prop :=
  encWE = [0x10] ∧
  (∀ (a : Addr) (d : List Byte), d.length = 256 →
    (encWP a d).length = 259 ∧ (encWP a d)[0]? = some 0x12 ∧
      (encWP a d)[1]? = some (BitVec.ofNat 8 (a.toNat / 256)) ∧ (encWP a d)[2]? = some (BitVec.ofNat 8 (a.toNat % 256)) ∧
      ∀ k < 256, (encWP a d)[3 + k]? = d[k]?) ∧
  (∀ a : Addr, encSRA a = [0x20, BitVec.ofNat 8 (a.toNat / 256), BitVec.ofNat 8 (a.toNat % 256)])

/-- Byte 0 alone gives a frame's length, that of every transmit among them, and a stream is decoded frame by
frame (R78). -/
def Obligations.FrameLengthFromItsOpcode : Prop :=
  (frameLength 0x10 = some 1 ∧ frameLength 0x12 = some 259 ∧ frameLength 0x20 = some 3 ∧
    ∀ op, op ≠ 0x10 → op ≠ 0x12 → op ≠ 0x20 → frameLength op = none) ∧
  (∀ (i : Instr) (f : List Byte), i.WellFormed → encode i = .frame f →
    (∃ op rest, f = op :: rest ∧ frameLength op = some f.length) ∧ ∀ rest, decodeStream (f ++ rest) = .ok (i, rest)) ∧
  (∀ (s t : State) (dev : Byte) (f : List Byte) (st : Status),
    step s = .next t → .tx dev f st ∈ t.trace → .tx dev f st ∉ s.trace →
    ∃ op rest, f = op :: rest ∧ frameLength op = some f.length) ∧
  (∀ w : CmdWord, (Coded.host w).width = 40)

/-- Every frame a step emits has exactly one of the three forms of R95, so its address and payload are
recovered from its bytes. -/
def Obligations.EmittedFramesHaveOneOfThreeForms : Prop :=
  ∀ (s t : State) (dev : Byte) (f : List Byte) (st : Status),
    step s = .next t → .tx dev f st ∈ t.trace → .tx dev f st ∉ s.trace →
    let addr := BitVec.ofNat 16 ((f.getD 1 0).toNat * 256 + (f.getD 2 0).toNat)
    let isWe := f = [0x10]
    let isWp := f.length = 259 ∧ f[0]? = some 0x12 ∧ f = encWP addr (f.drop 3)
    let isSra := f.length = 3 ∧ f[0]? = some 0x20 ∧ f = encSRA addr
    (isWe ∧ ¬isWp ∧ ¬isSra) ∨ (¬isWe ∧ isWp ∧ ¬isSra) ∨ (¬isWe ∧ ¬isWp ∧ isSra)

/-! ## Operands, statuses, preconditions -/

/-- `PageAddr(CA, i)` (R123). -/
def Obligations.PageAddressByPolicy : Prop :=
  ∀ (ca : Addr) (i : BitVec 8),
    pageAddr .fixed ca i = ca ∧ (pageAddr .advance ca i).toNat = (ca.toNat + i.toNat * 256) % 2 ^ 16 ∧
      pageAddr .fixed ca 0 = ca ∧ pageAddr .advance ca 0 = ca

/-- The payload of page i is `SRC` bytes i×256 to i×256+255, under either address policy (R124). -/
def Obligations.PayloadIsThePageOfTheSource : Prop :=
  ∀ (s : State) (h : Handle), s.src = some h →
    s.payload.length = 256 ∧
      ∀ k < 256, s.payload[k]? = some (s.mem.get (h.base + (s.pi.toNat * 256 + k)))

/-- The preconditions, term by term, with the buffer check of either configuration and the Write length check
(R116, R118, R119). -/
def Obligations.PreconditionsTermByTerm : Prop :=
  (∀ s : State, s.writePre = true ↔
    s.init = true ∧ bufOk s.cfg.bufCheck s.bp = true ∧ s.cl.toNat ≠ 0 ∧ s.cl.toNat % 256 = 0) ∧
  (∀ s : State, s.readPre = true ↔ s.init = true ∧ bufOk s.cfg.bufCheck s.bp = true ∧ s.cl.toNat ≠ 0) ∧
  (∀ bp : Bool, (bufOk .intended bp = true ↔ bp = true) ∧ (bufOk .literal bp = true ↔ bp = false)) ∧
  (∀ len : Len, writeLenOk len = true ↔ len.toNat ≠ 0 ∧ len.toNat % 256 = 0) ∧
  (writeLenOk 0x0000 = false ∧ writeLenOk 0x0001 = false ∧ writeLenOk 0x00FF = false ∧ writeLenOk 0x0100 = true ∧
    writeLenOk 0x0180 = false ∧ writeLenOk 0xFF00 = true ∧ writeLenOk 0xFFFF = false)

/-- The transport places no law on its answers: whatever a state is otherwise, any status and any bytes may be
the answer, and of a receive as many bytes come as were asked for (R60). -/
def Obligations.AnyTransportAnswerIsPossible : Prop :=
  (∀ (s : State) (st : Status) (rest : List Status), ({ s with txAns := st :: rest }).txAnswer = st) ∧
  (∀ (s : State) (st : Status) (bytes : List Byte) (rest : List RxAnswer),
    ({ s with rxAns := ⟨st, bytes⟩ :: rest }).rxStatus = st ∧
      ({ s with rxAns := ⟨st, bytes⟩ :: rest }).rxBytes bytes.length = bytes) ∧
  (∀ (s : State) (n : Nat), (s.rxBytes n).length = n)

/-! ## Host commands -/

/-- INIT in `IDLE` (R112, R113): what it does the first time and afterwards; nothing else changes. That the
accepted word leaves the command interface is the `cmd` field. -/
def Obligations.InitCompletesOk : Prop :=
  ∀ s : State, s.seq = .idle →
    (s.init = false →
      exec .init s =
        .next { s with cmd := none, init := true, status := some .ok, trace := s.trace ++ [.extInitSetup, .done .init .ok] }) ∧
    (s.init = true →
      exec .init s = .next { s with cmd := none, status := some .ok, trace := s.trace ++ [.done .init .ok] })

/-- A WRITE whose precondition fails completes in its acceptance step (R117): the operands are latched, the
status is `NotOk`, and nothing else changes. -/
def Obligations.FailedWriteCompletesAtOnce : Prop :=
  ∀ (s : State) (bp : Bool) (addr : Addr) (len : Len), s.seq = .idle →
    ¬(s.init = true ∧ bufOk s.cfg.bufCheck bp = true ∧ len.toNat ≠ 0 ∧ len.toNat % 256 = 0) →
    exec (.write bp addr len) s =
      .next { s with
        cmd := none, ca := addr, cl := len, bp := bp, src := if bp then some s.hnd else none,
        status := some .notOk, trace := s.trace ++ [.done .write .notOk] }

/-- A WRITE whose precondition holds starts (R120): `NP`, `PI` and `SEQ` are written, nothing is emitted, and
`NP` ≥ 1 with `CL` = `NP` × 256. -/
def Obligations.WriteStartsAtPageZero : Prop :=
  ∀ (s : State) (bp : Bool) (addr : Addr) (len : Len), s.seq = .idle → s.init = true →
    bufOk s.cfg.bufCheck bp = true → len.toNat ≠ 0 → len.toNat % 256 = 0 →
    exec (.write bp addr len) s =
      .next { s with
        cmd := none, ca := addr, cl := len, bp := bp, src := if bp then some s.hnd else none,
        np := BitVec.ofNat 8 (len.toNat / 256), pi := 0, seq := .wrWe } ∧
    1 ≤ (BitVec.ofNat 8 (len.toNat / 256)).toNat ∧ len.toNat = (BitVec.ofNat 8 (len.toNat / 256)).toNat * 256

/-- READ in `IDLE` (R136): it goes on to its set-read-address step exactly when its precondition holds, and
otherwise completes at once with `NotOk`; nothing else changes. -/
def Obligations.ReadAcceptance : Prop :=
  ∀ (s : State) (bp : Bool) (addr : Addr) (len : Len), s.seq = .idle →
    ((s.init = true ∧ bufOk s.cfg.bufCheck bp = true ∧ len.toNat ≠ 0) →
      exec (.read bp addr len) s =
        .next { s with
          cmd := none, ca := addr, cl := len, bp := bp, dst := if bp then some s.hnd else none, seq := .rdSra }) ∧
    (¬(s.init = true ∧ bufOk s.cfg.bufCheck bp = true ∧ len.toNat ≠ 0) →
      exec (.read bp addr len) s =
        .next { s with
          cmd := none, ca := addr, cl := len, bp := bp, dst := if bp then some s.hnd else none,
          status := some .notOk, trace := s.trace ++ [.done .read .notOk] })

/-- The step that accepts a WRITE or READ latches the fields of the presented word and the handle (R111); the
step that accepts an INIT latches nothing. -/
def Obligations.AcceptanceLatchesTheOperands : Prop :=
  ∀ (s t : State) (w : CmdWord), s.host = [] → s.seq = .idle → s.cmd = some w → step s = .next t →
    (w.toNat / 8 % 32 = 0 → 2 ≤ w.toNat % 4 →
      t.ca.toNat = w.toNat / 2 ^ 8 % 2 ^ 16 ∧ t.cl.toNat = w.toNat / 2 ^ 24 ∧ t.bp = (w.toNat / 4 % 2 == 1)) ∧
    (w.toNat / 8 % 32 = 0 → w.toNat % 4 = 2 →
      t.src = (if w.toNat / 4 % 2 = 1 then some s.hnd else none) ∧ t.dst = s.dst) ∧
    (w.toNat / 8 % 32 = 0 → w.toNat % 4 = 3 →
      t.dst = (if w.toNat / 4 % 2 = 1 then some s.hnd else none) ∧ t.src = s.src) ∧
    (w.toNat % 4 = 1 → t.ca = s.ca ∧ t.cl = s.cl ∧ t.bp = s.bp ∧ t.src = s.src ∧ t.dst = s.dst)

/-- What the host commands leave unchanged, each by name, with every byte of memory. -/
def Obligations.HostCommandsKeepTheRest : Prop :=
  ∀ s t : State,
    (exec .init s = .next t →
      t.seq = s.seq ∧ t.ca = s.ca ∧ t.cl = s.cl ∧ t.bp = s.bp ∧ t.np = s.np ∧ t.pi = s.pi ∧ t.wes = s.wes ∧
        t.fault = s.fault ∧ t.src = s.src ∧ t.dst = s.dst) ∧
    (∀ bp addr len, exec (.write bp addr len) s = .next t →
      t.init = s.init ∧ t.wes = s.wes ∧ t.fault = s.fault ∧ t.dst = s.dst) ∧
    (∀ bp addr len, exec (.read bp addr len) s = .next t →
      t.init = s.init ∧ t.np = s.np ∧ t.pi = s.pi ∧ t.wes = s.wes ∧ t.fault = s.fault ∧ t.src = s.src) ∧
    (∀ i, (i = .init ∨ (∃ bp addr len, i = .write bp addr len) ∨ ∃ bp addr len, i = .read bp addr len) →
      exec i s = .next t →
      t.mark = s.mark ∧ t.cfg = s.cfg ∧ t.hnd = s.hnd ∧ t.host = s.host ∧ t.txAns = s.txAns ∧ t.rxAns = s.rxAns ∧
        t.nullAns = s.nullAns ∧ t.draws = s.draws ∧ ∀ a, t.mem.get a = s.mem.get a)

/-! ## Frames: the sequencer's steps -/

/-- FRAME_WE in `WR_WE` (R122): the write-enable frame is sent, its status kept in `WES`, and the sequencer goes
on to `WR_WP` whatever the status is. (Where R129 applies, see `NullSourceHasTwoRuns`.) -/
def Obligations.WriteEnableStep : Prop :=
  ∀ s : State, s.seq = .wrWe → ¬(s.cfg.bufCheck = .literal ∧ s.bp = false ∧ s.pi = 0) →
    exec .frameWe s =
      .next { s with
        trace := s.trace ++ [.tx s.cfg.devAddr [0x10] s.txAnswer], wes := s.txAnswer, seq := .wrWp,
        txAns := s.txAns.tail, draws := s.draws + 1 }

/-- The two runs of a null source under the literal check (R129), both admitted; that the literal check lets such
a Write proceed, and the intended check does not. -/
def Obligations.NullSourceHasTwoRuns : Prop :=
  (∀ (s : State) (rest : List Bool), s.seq = .wrWe → s.cfg.bufCheck = .literal → s.bp = false → s.pi = 0 →
    exec .frameWe { s with nullAns := true :: rest } =
      .next { s with
        nullAns := rest, draws := s.draws + 1, trace := s.trace ++ [.faulted (.nullSource 0)],
        fault := some (.nullSource 0), seq := .faulted } ∧
    exec .frameWe { s with nullAns := false :: rest } =
      .next { s with
        nullAns := rest, draws := s.draws + 2, txAns := s.txAns.tail,
        trace := s.trace ++ [.tx s.cfg.devAddr [0x10] ({ s with draws := s.draws + 1 }).txAnswer],
        wes := ({ s with draws := s.draws + 1 }).txAnswer, seq := .wrWp }) ∧
  (∀ s : State, s.host = [] → s.seq = .wrWp → s.cfg.bufCheck = .literal → s.bp = false → s.pi = 0 →
    step s =
      .next { s with
        trace := s.trace ++ [.faulted (.nullSource 0)], fault := some (.nullSource 0), seq := .faulted }) ∧
  (∀ s : State, s.cfg.bufCheck = .literal → s.bp = false → s.init = true → writeLenOk s.cl = true → s.writePre = true) ∧
  (∀ s : State, s.cfg.bufCheck = .intended → s.bp = false → s.writePre = false)

/-- FRAME_WP in `WR_WP` on a source long enough (R125, R126, R127): the frame is sent; on the last page the Write
completes with the pair's status, and before it the sequencer goes on to the next page whatever the statuses
were. -/
def Obligations.WritePageStep : Prop :=
  ∀ (s : State) (h : Handle) (addr : Addr) (d : List Byte), s.seq = .wrWp → d.length = 256 → s.bp = true →
    s.src = some h → s.pi.toNat * 256 + 256 ≤ h.size →
    (s.pi.toNat + 1 = s.np.toNat →
      ∃ pair : Status, (pair = .ok ↔ s.wes = .ok ∧ s.txAnswer = .ok) ∧
        exec (.frameWp addr d) s =
          .next { s with
            trace := s.trace ++ [.tx s.cfg.devAddr (encWP addr d) s.txAnswer, .done .write pair],
            status := some pair, seq := .idle, txAns := s.txAns.tail, draws := s.draws + 1 }) ∧
    (s.pi.toNat + 1 ≠ s.np.toNat →
      exec (.frameWp addr d) s =
        .next { s with
          trace := s.trace ++ [.tx s.cfg.devAddr (encWP addr d) s.txAnswer], pi := s.pi + 1, seq := .wrWe,
          txAns := s.txAns.tail, draws := s.draws + 1 })

/-- A source too short for the page (R130): the fault comes before the payload is read and before the page is
sent, and earlier transactions stay in the trace. -/
def Obligations.SourceOverrunFaults : Prop :=
  ∀ s : State, s.host = [] → s.seq = .wrWp → s.bp = true → handleSize s.src < s.pi.toNat * 256 + 256 →
    step s =
      .next { s with
        trace := s.trace ++ [.faulted (.srcOverrun s.pi)], fault := some (.srcOverrun s.pi), seq := .faulted }

/-- A payload that is not one page long is no legal call (R92). That FRAME_WP then answers the outcome refused,
under the name illegalPayload, is the model's choice (log entry 14); no step forms such a frame, for the payload
the sequencer reads is one page long. -/
def Obligations.IllegalPayloadStops : Prop :=
  (∀ (s : State) (addr : Addr) (d : List Byte), s.seq = .wrWp → d.length ≠ 256 →
    exec (.frameWp addr d) s = .refused (.illegalPayload d.length)) ∧
  (∀ s : State, s.payload.length = 256)

/-- FRAME_SRA in `RD_SRA` (R137, R138): the frame is sent to `DEV_ADDR`; on `Ok` the receive is next, and on
`NotOk` the Read ends with no receive. The block's step there is this one on `CA`. -/
def Obligations.SetReadAddressStep : Prop :=
  (∀ (s : State) (addr : Addr), s.seq = .rdSra →
    (s.txAnswer = .ok →
      exec (.frameSra addr) s =
        .next { s with
          trace := s.trace ++ [.tx s.cfg.devAddr (encSRA addr) .ok], seq := .rdRx, txAns := s.txAns.tail,
          draws := s.draws + 1 }) ∧
    (s.txAnswer = .notOk →
      exec (.frameSra addr) s =
        .next { s with
          trace := s.trace ++ [.tx s.cfg.devAddr (encSRA addr) .notOk, .done .read .notOk],
          status := some .notOk, seq := .idle, txAns := s.txAns.tail, draws := s.draws + 1 })) ∧
  (∀ s : State, s.host = [] → s.seq = .rdSra → step s = exec (.frameSra s.ca) s)

/-- What the frames leave unchanged, each by name, with every byte of memory: no frame writes the host's
memory. -/
def Obligations.FramesKeepTheRest : Prop :=
  ∀ s t : State,
    (exec .frameWe s = .next t → t.pi = s.pi ∧ t.status = s.status) ∧
    (∀ addr d, exec (.frameWp addr d) s = .next t → t.wes = s.wes ∧ t.nullAns = s.nullAns) ∧
    (∀ addr, exec (.frameSra addr) s = .next t →
      t.pi = s.pi ∧ t.wes = s.wes ∧ t.fault = s.fault ∧ t.nullAns = s.nullAns) ∧
    (∀ i, (i = .frameWe ∨ (∃ addr d, i = .frameWp addr d) ∨ ∃ addr, i = .frameSra addr) → exec i s = .next t →
      t.init = s.init ∧ t.ca = s.ca ∧ t.cl = s.cl ∧ t.bp = s.bp ∧ t.np = s.np ∧ t.src = s.src ∧ t.dst = s.dst ∧
        t.mark = s.mark ∧ t.cfg = s.cfg ∧ t.cmd = s.cmd ∧ t.hnd = s.hnd ∧ t.host = s.host ∧ t.rxAns = s.rxAns ∧
        ∀ a, t.mem.get a = s.mem.get a)

/-- An instruction whose sequencer state this is not changes nothing: a host command is held while the block is
busy (R110), a frame is emitted by no other step (R96; that offering it there is then without effect is the
model's choice, log entry 9), and in `FAULTED` nothing is taken (R152). -/
def Obligations.OutOfTurnInstructionsAreHeld : Prop :=
  ∀ (s : State) (i : Instr),
    s.seq ≠ (match i with | .frameWe => .wrWe | .frameWp _ _ => .wrWp | .frameSra _ => .rdSra | _ => .idle) →
    (s.seq ≠ .faulted → exec i s = .next s) ∧ (s.seq = .faulted → exec i s = .fault (.faulted s.fault))

/-! ## The receive -/

/-- The `RD_RX` step on a destination long enough (R139, R140, R141), in a canonical memory: the received bytes
stand in `DST` bytes 0 to `CL` − 1 whatever the status, every other byte of memory is as it was, the Read's
result is the receive's status, and no other register changes. -/
def Obligations.ReceiveWritesTheDestination : Prop :=
  ∀ (s : State) (h : Handle), s.host = [] → s.seq = .rdRx → s.bp = true → s.dst = some h →
    s.cl.toNat ≤ h.size → s.mem.wf = true →
    ∃ m : Memory,
      step s =
        .next { s with
          mem := m, status := some s.rxStatus, seq := .idle, rxAns := s.rxAns.tail, draws := s.draws + 1,
          trace := s.trace ++ [.rx s.cfg.devAddr s.cl.toNat s.rxStatus (s.rxBytes s.cl.toNat), .done .read s.rxStatus] } ∧
      (s.rxBytes s.cl.toNat).length = s.cl.toNat ∧
      (∀ k < s.cl.toNat, some (m.get (h.base + k)) = (s.rxBytes s.cl.toNat)[k]?) ∧
      (∀ a, a < h.base ∨ h.base + s.cl.toNat ≤ a → m.get a = s.mem.get a)

/-- A destination shorter than `CL` faults before the receive (R143). -/
def Obligations.DestinationOverrunFaults : Prop :=
  ∀ s : State, s.host = [] → s.seq = .rdRx → s.bp = true → handleSize s.dst < s.cl.toNat →
    step s =
      .next { s with
        trace := s.trace ++ [.faulted (.dstOverrun s.cl)], fault := some (.dstOverrun s.cl), seq := .faulted }

/-- A READ with a null destination under the literal check, from its acceptance to its end (R142). -/
def Obligations.NullDestinationUnderLiteral : Prop :=
  (∀ (s : State) (w : CmdWord) (addr : Addr) (len : Len), s.host = [] → s.seq = .idle → s.init = true →
    s.cfg.bufCheck = .literal → s.cmd = some w → decodeHost w = .ok (.read false addr len) → len.toNat ≠ 0 →
    (s.txAnswer = .ok →
      steps 3 s =
        .next { s with
          cmd := none, ca := addr, cl := len, bp := false, dst := none, txAns := s.txAns.tail, draws := s.draws + 1,
          trace := s.trace ++ [.tx s.cfg.devAddr (encSRA addr) .ok, .faulted .nullDest],
          fault := some .nullDest, seq := .faulted }) ∧
    (s.txAnswer = .notOk →
      steps 2 s =
        .next { s with
          cmd := none, ca := addr, cl := len, bp := false, dst := none, txAns := s.txAns.tail, draws := s.draws + 1,
          trace := s.trace ++ [.tx s.cfg.devAddr (encSRA addr) .notOk, .done .read .notOk],
          status := some .notOk, seq := .idle })) ∧
  (∀ s : State, s.cfg.bufCheck = .intended → s.bp = false → s.readPre = false)

/-! ## Steps -/

/-- The next step runs the instruction the state selects: the presented word that decodes, or the frame of the
sequencer's state, formed from `CA`, `PI` and `SRC` now. Nothing is added around `exec` but the taking of a
yield off the host's list (`blocksTurn`). -/
def Obligations.StepRunsTheSelectedInstruction : Prop :=
  ∀ s u : State, blocksTurn s = some u →
    (∀ w i, u.seq = .idle → u.cmd = some w → decodeHost w = .ok i → step s = exec i u) ∧
    (u.seq = .wrWe → step s = exec .frameWe u) ∧
    (u.seq = .wrWp → step s = exec (.frameWp (pageAddr u.cfg.addrPolicy u.ca u.pi) u.payload) u) ∧
    (u.seq = .rdSra → step s = exec (.frameSra u.ca) u)

/-- `SEQ` with `PI` plays the part of a program counter (R25): where each step of the block takes it. -/
def Obligations.SequencerMovesAsAProgramCounter : Prop :=
  ∀ s u t : State, blocksTurn s = some u → step s = .next t →
    (u.seq = .idle → t.seq = .idle ∨ (t.seq = .wrWe ∧ t.pi = 0) ∨ t.seq = .rdSra) ∧
    (u.seq = .wrWe → t.pi = u.pi ∧ (t.seq = .wrWp ∨ t.seq = .faulted)) ∧
    (u.seq = .wrWp →
      (t.seq = .wrWe ∧ t.pi = u.pi + 1 ∧ u.pi.toNat + 1 ≠ u.np.toNat) ∨
      (t.seq = .idle ∧ t.pi = u.pi ∧ u.pi.toNat + 1 = u.np.toNat) ∨ t.seq = .faulted) ∧
    (u.seq = .rdSra → t.seq = .rdRx ∨ t.seq = .idle) ∧
    (u.seq = .rdRx → t.seq = .idle ∨ t.seq = .faulted) ∧
    u.seq ≠ .faulted

/-- A command is accepted only in `IDLE` (R110): while the block is busy the presented word stays presented, with
its handle, and while it is `FAULTED` the block has no step. -/
def Obligations.BusyBlockHoldsTheCommand : Prop :=
  (∀ s u t : State, blocksTurn s = some u → u.seq ≠ .idle → step s = .next t → t.cmd = u.cmd ∧ t.hnd = u.hnd) ∧
  (∀ s u : State, blocksTurn s = some u → u.seq = .faulted → step s = .fault (.faulted u.fault))

/-- A step never answers the outcome refused, in any state. Of a refused command word this is the model's choice
(log entry 7): R110 says that it has no step and R154 that it has no meaning, and the model's step on it sets the
mark and answers a next state. -/
def Obligations.NoStepIsRefused : Prop :=
  ∀ (s : State) (r : Refusal), step s ≠ .refused r

/-- A step answers a fault exactly when its turn is the block's and `SEQ` = `FAULTED` (R152, R159: nothing else
stops the machine). -/
def Obligations.OnlyFaultedStops : Prop :=
  ∀ (s : State) (f : Fault),
    step s = .fault f ↔ ∃ u, blocksTurn s = some u ∧ u.seq = .faulted ∧ f = .faulted u.fault

/-- Refusals (R154): a refused command word, and a host read of `STATUS` that has no value, set the refusal mark
and change no state of the block; and the mark is kept by every step. That the step on a refused word answers a
next state, and that a reset keeps the mark, is the model's choice (log entry 7). -/
def Obligations.RefusalsSetTheMark : Prop :=
  (∀ (s : State) (w : CmdWord) (r : HostRefusal), s.host = [] → s.seq = .idle → s.cmd = some w →
    ((w.toNat % 4 = 0 ∧ r = .reservedOp) ∨ (2 ≤ w.toNat % 4 ∧ w.toNat / 8 % 32 ≠ 0 ∧ r = .reservedBits)) →
    ∃ t, step s = .next t ∧ t.mark = s.mark ++ [r] ∧ { t with mark := s.mark, cmd := s.cmd } = s) ∧
  (∀ (s : State) (rest : List HostAction), s.host = .readStatus :: rest → s.status = none →
    step s = .next { s with host := rest, mark := s.mark ++ [.statusUnset] }) ∧
  (∀ (s : State) (rest : List HostAction), s.host = .readStatus :: rest → s.status ≠ none →
    step s = .next { s with host := rest }) ∧
  (∀ s t : State, step s = .next t → ∃ more, t.mark = s.mark ++ more)

/-- A reset between any two steps (R180): the registers whose values after reset the spec gives take them, the
command in flight is abandoned with no event and no draw, and the trace, the host's memory, the transport and the
configuration stay. (What the model keeps beyond that: `ResetKeepsTheMark`.) -/
def Obligations.ResetFromAnyState : Prop :=
  ∀ (s : State) (rest : List HostAction), s.host = .reset :: rest →
    ∃ t, step s = .next t ∧ t.init = false ∧ t.seq = .idle ∧ t.fault = none ∧ t.status = none ∧
      t.trace = s.trace ∧ t.mem = s.mem ∧ t.cfg = s.cfg ∧
      t.txAns = s.txAns ∧ t.rxAns = s.rxAns ∧ t.nullAns = s.nullAns ∧ t.draws = s.draws

/-- After power-on (R42): the values the spec gives, and `STATUS` refused to the host. -/
def Obligations.PowerOnState : Prop :=
  State.reset.init = false ∧ State.reset.seq = .idle ∧ State.reset.fault = none ∧ State.reset.status = none ∧
    State.reset.hostReadStatus = .error .statusUnset ∧ State.reset.trace = [] ∧ State.reset.ready = true

/-- Fault entry is sticky (R152): in `FAULTED` the block has no step, no instruction is taken, the run has not
ended well, and a step that leaves `FAULTED` is a reset. -/
def Obligations.FaultedIsLeftOnlyByReset : Prop :=
  ∀ s : State, s.seq = .faulted →
    (∀ i, exec i s = .fault (.faulted s.fault)) ∧ ¬s.EndedWell ∧
      ∀ t, step s = .next t → t.seq ≠ .faulted → ∃ rest, s.host = .reset :: rest

/-! ## Rules of the whole machine -/

/-- `FAULT` ≠ `none` holds exactly when `SEQ` = `FAULTED`, kept by every step; only a fault entry and a reset
write `FAULT`; its reset value is `none` (R23). -/
def Obligations.FaultRegisterFollowsTheSequencer : Prop :=
  State.reset.fault = none ∧
  ∀ s t : State, step s = .next t →
    (FaultInv s → FaultInv t) ∧
    (t.fault ≠ s.fault →
      (∃ r, t.fault = some r ∧ t.seq = .faulted ∧ t.trace = s.trace ++ [.faulted r]) ∨
      (t.fault = none ∧ ∃ rest, s.host = .reset :: rest))

/-- The invariant of the sequencer, the registers of the command in flight and the memory is kept by every
step. -/
def Obligations.EveryStepKeepsTheInvariant : Prop :=
  ∀ s t : State, Inv s → step s = .next t → Inv t

/-- The invariant holds after power-on. -/
def Obligations.PowerOnStateHasTheInvariant : Prop := Inv State.reset

/-- The trace is append-only (R37); a step appends at most one transport transaction (R59), and what it appends
is legal: every frame is one of the three (R95), every transaction goes to `DEV_ADDR` and has its width (R58,
R94). -/
def Obligations.StepAppendsOneLegalTransaction : Prop :=
  ∀ s t : State, ReadInv s → step s = .next t →
    ∃ es : List Event, t.trace = s.trace ++ es ∧ (∀ e ∈ es, EventLegal s.cfg e) ∧
      (es.filter Event.isTransaction).length ≤ 1

/-- Only INIT changes `INIT`, and only from 0 to 1 (R146); WRITE and READ never write it, INIT makes no transport
transaction; and reset alone returns it to 0. -/
def Obligations.InitFlagIsOneWay : Prop :=
  (∀ (i : Instr) (s t : State), exec i s = .next t → i ≠ .init → t.init = s.init) ∧
  (∀ s t : State, exec .init s = .next t →
    (s.init = true → t.init = true) ∧
      ∃ es, t.trace = s.trace ++ es ∧ ∀ e ∈ es, e.isTransaction = false) ∧
  (∀ s t : State, step s = .next t → t.init ≠ s.init →
    (t.init = true ∧ ∃ u w, blocksTurn s = some u ∧ u.seq = .idle ∧ u.cmd = some w ∧ decodeHost w = .ok .init) ∨
    (t.init = false ∧ ∃ rest, s.host = .reset :: rest))

/-- No step writes the configuration (R36). -/
def Obligations.ConfigurationIsNeverWritten : Prop :=
  ∀ s t : State, step s = .next t → t.cfg = s.cfg

/-- Who changes a byte of the host's memory: the host itself, or the receive of a READ, and the latter only in
`DST` bytes 0 to `CL` − 1 (R61, R140). -/
def Obligations.OnlyTheHostAndTheReceiveChangeMemory : Prop :=
  ∀ (s t : State) (a : Nat), step s = .next t → t.mem.get a ≠ s.mem.get a →
    (∃ b rest, s.host = .poke a b :: rest) ∨
    (∃ u, blocksTurn s = some u ∧ u.seq = .rdRx ∧ u.bp = true ∧ u.cl.toNat ≤ handleSize u.dst ∧
      handleBase u.dst ≤ a ∧ a < handleBase u.dst + u.cl.toNat)

/-- Completion (R145): a step that changes `STATUS` to a value completes a command: it appends exactly one
`Done`, last, with that status, and leaves the block in `IDLE`; a step that appends a `Done` so completes; and a
step that appends none leaves `STATUS` unless it is a reset. -/
def Obligations.CompletionIsOneDoneAndTheStatus : Prop :=
  ∀ s t : State, step s = .next t →
    (∃ es op st, t.trace = s.trace ++ es ++ [.done op st] ∧ (∀ op' st', .done op' st' ∉ es) ∧
      t.status = some st ∧ t.seq = .idle) ∨
    (∃ es, t.trace = s.trace ++ es ∧ (∀ op st, .done op st ∉ es) ∧
      (t.status = s.status ∨ (t.status = none ∧ ∃ rest, s.host = .reset :: rest)))

/-- The registers R42 leaves unspecified are written before they are read: two states that differ only in
registers no later step of the command in flight reads take steps that differ only so. So no claim about the
trace, the statuses, the faults or the memory rests on the values the model gives those registers (log
entry 1). -/
def Obligations.UnspecifiedRegistersAreUnobservable : Prop :=
  ∀ s t : State, s.live = t.live → liveOutcome (step s) = liveOutcome (step t)

/-! ## Whole commands -/

/-- The traffic of a Write that proceeds with n pages and raises no fault (R128): with nothing for the host to
do, 2n + 1 steps accept it and send exactly n write-enable frames interleaved with n write-page frames, each
with its page's address and bytes, then one `Done`, with the status of the last pair; nothing else changes. -/
def Obligations.WriteSendsItsPagesInOrder : Prop :=
  ∀ (s : State) (w : CmdWord) (addr : Addr) (len : Len), s.host = [] → s.seq = .idle → s.cmd = some w →
    decodeHost w = .ok (.write true addr len) → (s.latchWrite true addr len).writePre = true →
    len.toNat ≤ s.hnd.size →
    let n := len.toNat / 256
    let u := { s with cmd := none, ca := addr, cl := len, bp := true, src := some s.hnd }
    let pair := pairStatus (s.txAnswerAt (2 * n - 2)) (s.txAnswerAt (2 * n - 1))
    steps (2 * n + 1) s =
      .next { u with
        np := BitVec.ofNat 8 n, pi := BitVec.ofNat 8 (n - 1), wes := s.txAnswerAt (2 * n - 2),
        status := some pair, trace := s.trace ++ u.writeEvents n ++ [.done .write pair],
        txAns := s.txAns.drop (2 * n), draws := s.draws + 2 * n }

/-- The traffic of a READ that proceeds and raises no fault: one set-read-address frame and, if it is answered
`Ok`, exactly one receive of `CL` bytes into `DST`; none if it is not. -/
def Obligations.ReadSelectsThenReceives : Prop :=
  ∀ (s : State) (w : CmdWord) (addr : Addr) (len : Len), s.host = [] → s.seq = .idle → s.cmd = some w →
    decodeHost w = .ok (.read true addr len) → (s.latchRead true addr len).readPre = true →
    len.toNat ≤ s.hnd.size →
    let u := { s with cmd := none, ca := addr, cl := len, bp := true, dst := some s.hnd, txAns := s.txAns.tail, draws := s.draws + 1 }
    (s.txAnswer = .notOk →
      steps 2 s =
        .next { u with
          status := some .notOk,
          trace := s.trace ++ [.tx s.cfg.devAddr (encSRA addr) .notOk, .done .read .notOk] }) ∧
    (s.txAnswer = .ok →
      steps 3 s =
        .next { u with
          status := some u.rxStatus, rxAns := s.rxAns.tail, draws := s.draws + 2,
          mem := s.mem.writeBytes s.hnd.base (u.rxBytes len.toNat),
          trace := s.trace ++
            [.tx s.cfg.devAddr (encSRA addr) .ok, .rx s.cfg.devAddr len.toNat u.rxStatus (u.rxBytes len.toNat),
              .done .read u.rxStatus] })

/-- A block left to itself in the middle of a command comes to `IDLE` or to `FAULTED`, in at most the steps its
`SEQ`, `NP` and `PI` still name, and in at most 510: no command hangs, given that the transport answers every
request, which the model takes (R163; log entry 3). -/
def Obligations.EveryCommandEnds : Prop :=
  ∀ s : State, s.host = [] → WriteInv s →
    s.stepsLeft ≤ 510 ∧
      ∃ k t, k ≤ s.stepsLeft ∧ steps k s = .next t ∧ (t.seq = .idle ∨ t.seq = .faulted)

/-! ## Further statements -/

/-- A run that reaches `FAULTED` does not end well, at any point: however it goes on, resets among the steps, no
later state of it has ended well, and none is of a run without a fault (R152, R192). -/
def Obligations.ARunThatReachesFaultedNeverEndsWell : Prop :=
  ∀ (s t u : State) (k : Nat), s.seq ≠ .faulted → step s = .next t → t.seq = .faulted → steps k t = .next u →
    ¬u.EndedWell ∧ ¬u.Clean

/-- The run's record of a fault entry is kept by every step; a state in `FAULTED` has it, after power-on and after
every step from a state that does (R37, R152). -/
def Obligations.TheTraceShowsEveryFaultEntry : Prop :=
  (State.reset.seq = .faulted → State.reset.reachedFaulted = true) ∧
  ∀ s t : State, step s = .next t →
    (s.reachedFaulted = true → t.reachedFaulted = true) ∧
    ((s.seq = .faulted → s.reachedFaulted = true) → t.seq = .faulted → t.reachedFaulted = true)

/-- One frame of each row of the opcode table that is a frame, written out (R76), and one table word, whose bits
are numbered from the frame's first byte: the model's choice (log entry 10). -/
def Obligations.FrameWordsDecode : Prop :=
  decodeFrame [0x10] = .ok .frameWe ∧
  decodeFrame (0x12 :: 0x01 :: 0x00 :: List.replicate 256 0xA5) = .ok (.frameWp 0x0100 (List.replicate 256 0xA5)) ∧
  decodeFrame [0x20, 0x00, 0x50] = .ok (.frameSra 0x0050) ∧
  decodeTableWord 24 0x500020 = some (.frameSra 0x0050)

/-- The `WR_WP` step with `BP` = 0 faults with NULL_SOURCE, recording page 0, in every state: under either buffer
check, at any page, whatever the source's size. In states that no run reaches (not `LITERAL`, or not page 0) this
is the model's choice (log entry 13). -/
def Obligations.NullSourceFaultsWhateverTheState : Prop :=
  ∀ s : State, s.host = [] → s.seq = .wrWp → s.bp = false →
    step s =
      .next { s with
        trace := s.trace ++ [.faulted (.nullSource 0)], fault := some (.nullSource 0), seq := .faulted }

/-- A reset keeps the refusal mark, and takes nothing but itself off the host's list: the model's choices (log
entries 7 and 8). -/
def Obligations.ResetKeepsTheMark : Prop :=
  ∀ (s : State) (rest : List HostAction), s.host = .reset :: rest →
    ∃ t, step s = .next t ∧ t.mark = s.mark ∧ t.host = rest ∧ t.hnd = s.hnd
end

