-- ==== Sys2Proof/Laws/Decode.lean ====
section
/-! SUPPORT. The fields of a host command word and the bytes of an address as numbers, and what a word whose
fields are known decodes to. -/

namespace Sys2Proof

/-- `BP` as a number (R71). -/
theorem bpField_toNat (w : CmdWord) : (bpField w).toNat = w.toNat / 4 % 2 := by
  unfold bpField
  simp only [BitVec.getLsbD, Nat.testBit, Nat.shiftRight_eq_div_pow, Nat.and_comm 1, Nat.and_one_is_mod]
  rcases Nat.mod_two_eq_zero_or_one (w.toNat / 4) with h | h <;> simp [h]

/-- `OP` as a number (R71). -/
theorem opField_toNat (w : CmdWord) : (opField w).toNat = w.toNat % 4 := by
  simp [opField]

/-- `RSV` as a number (R71). -/
theorem rsvField_toNat (w : CmdWord) : (rsvField w).toNat = w.toNat / 8 % 32 := by
  simp [rsvField, Nat.shiftRight_eq_div_pow]

/-- `ADDR` as a number (R71). -/
theorem addrField_toNat (w : CmdWord) : (addrField w).toNat = w.toNat / 2 ^ 8 % 2 ^ 16 := by
  simp [addrField, Nat.shiftRight_eq_div_pow]

/-- `LEN` as a number (R71). -/
theorem lenField_toNat (w : CmdWord) : (lenField w).toNat = w.toNat / 2 ^ 24 % 2 ^ 16 := by
  simp [lenField, Nat.shiftRight_eq_div_pow]

/-- The word of given fields as a number (R71). -/
theorem hostWord_toNat (op : BitVec 2) (bp : Bool) (a : Addr) (l : Len) :
    (hostWord op bp a l).toNat = l.toNat * 2 ^ 24 + a.toNat * 2 ^ 8 + bp.toNat * 2 ^ 2 + op.toNat := by
  have := l.isLt
  have := a.isLt
  have := op.isLt
  have := bp.toNat_lt
  unfold hostWord
  rw [BitVec.toNat_ofNat]
  omega

/-- A Boolean is determined by its number. -/
theorem bool_eq_of_toNat : ∀ {x y : Bool}, x.toNat = y.toNat → x = y := by decide

@[simp] theorem opField_hostWord (op : BitVec 2) (bp : Bool) (a : Addr) (l : Len) :
    opField (hostWord op bp a l) = op := by
  apply BitVec.eq_of_toNat_eq
  have := bp.toNat_lt
  rw [opField_toNat, hostWord_toNat]
  omega

@[simp] theorem bpField_hostWord (op : BitVec 2) (bp : Bool) (a : Addr) (l : Len) :
    bpField (hostWord op bp a l) = bp := by
  apply bool_eq_of_toNat
  have := bp.toNat_lt
  rw [bpField_toNat, hostWord_toNat]
  omega

@[simp] theorem rsvField_hostWord (op : BitVec 2) (bp : Bool) (a : Addr) (l : Len) :
    rsvField (hostWord op bp a l) = 0 := by
  apply BitVec.eq_of_toNat_eq
  have := bp.toNat_lt
  rw [rsvField_toNat, hostWord_toNat]
  show _ = 0
  omega

@[simp] theorem addrField_hostWord (op : BitVec 2) (bp : Bool) (a : Addr) (l : Len) :
    addrField (hostWord op bp a l) = a := by
  apply BitVec.eq_of_toNat_eq
  have := bp.toNat_lt
  rw [addrField_toNat, hostWord_toNat]
  omega

@[simp] theorem lenField_hostWord (op : BitVec 2) (bp : Bool) (a : Addr) (l : Len) :
    lenField (hostWord op bp a l) = l := by
  apply BitVec.eq_of_toNat_eq
  have := bp.toNat_lt
  rw [lenField_toNat, hostWord_toNat]
  omega

/-- A word with `RSV` = 0 is the word of its fields. -/
theorem hostWord_fields {w : CmdWord} (h : rsvField w = 0) :
    hostWord (opField w) (bpField w) (addrField w) (lenField w) = w := by
  apply BitVec.eq_of_toNat_eq
  have hr : w.toNat / 8 % 32 = 0 := by rw [← rsvField_toNat, h]; rfl
  have := w.isLt
  rw [hostWord_toNat, bpField_toNat, opField_toNat, addrField_toNat, lenField_toNat]
  omega

/-! The cases of R80, on a word whose fields are known. (Stated for any word, so that no proof need look into
`hostWord`.) -/

theorem decodeHost_op_zero {w : CmdWord} (h : opField w = 0) : decodeHost w = .error .reservedOp := by
  simp [decodeHost, h]

theorem decodeHost_op_one {w : CmdWord} (h : opField w = 1) : decodeHost w = .ok .init := by
  simp [decodeHost, h]

theorem decodeHost_rsv {w : CmdWord} (h0 : opField w ≠ 0) (h1 : opField w ≠ 1) (hr : rsvField w ≠ 0) :
    decodeHost w = .error .reservedBits := by
  rw [decodeHost, if_neg h0, if_neg h1, if_pos hr]

theorem decodeHost_write {w : CmdWord} (h : opField w = 2) (hr : rsvField w = 0) :
    decodeHost w = .ok (.write (bpField w) (addrField w) (lenField w)) := by
  simp [decodeHost, h, hr]

theorem decodeHost_read {w : CmdWord} (h : opField w = 3) (hr : rsvField w = 0) :
    decodeHost w = .ok (.read (bpField w) (addrField w) (lenField w)) := by
  simp [decodeHost, h, hr]

theorem decode_host {w : CmdWord} {i : Instr} (h : decodeHost w = .ok i) : decode (.host w) = .ok i := by
  simp [decode, h]

theorem decode_frame {f : List Byte} {i : Instr} (h : decodeFrame f = .ok i) : decode (.frame f) = .ok i := by
  simp [decode, h]

/-! ## The bytes of an address (R53) -/

theorem addrHi_toNat (a : Addr) : (addrHi a).toNat = a.toNat / 256 := by
  have := a.isLt
  simp only [addrHi, BitVec.extractLsb'_toNat, Nat.shiftRight_eq_div_pow]
  omega

theorem addrLo_toNat (a : Addr) : (addrLo a).toNat = a.toNat % 256 := by
  simp [addrLo]

theorem addrOfBytes_toNat (hi lo : Byte) : (addrOfBytes hi lo).toNat = hi.toNat * 256 + lo.toNat := by
  have := hi.isLt
  have := lo.isLt
  simp only [addrOfBytes, BitVec.toNat_ofNat]
  omega

@[simp] theorem addrOfBytes_of_addr (a : Addr) : addrOfBytes (addrHi a) (addrLo a) = a := by
  apply BitVec.eq_of_toNat_eq
  rw [addrOfBytes_toNat, addrHi_toNat, addrLo_toNat]
  omega

@[simp] theorem addrHi_addrOfBytes (hi lo : Byte) : addrHi (addrOfBytes hi lo) = hi := by
  apply BitVec.eq_of_toNat_eq
  have := lo.isLt
  rw [addrHi_toNat, addrOfBytes_toNat]
  omega

@[simp] theorem addrLo_addrOfBytes (hi lo : Byte) : addrLo (addrOfBytes hi lo) = lo := by
  apply BitVec.eq_of_toNat_eq
  have := lo.isLt
  rw [addrLo_toNat, addrOfBytes_toNat]
  omega

/-- A write-page instruction is well formed when its payload is one page long. -/
theorem wellFormed_frameWp {a : Addr} {d : List Byte} : (Instr.frameWp a d).WellFormed ↔ d.length = 256 := by
  simp [Instr.WellFormed, Instr.wellFormed]

end Sys2Proof
end

