-- ==== Sys2Proof/Laws/Memory.lean ====
section
/-! SUPPORT. The laws of the host's memory: a byte read after a write, and the canonical form. -/

namespace Sys2Proof.Machine

open Sys2Proof

/-- A canonical form from a higher address is one from a lower address. -/
theorem Memory.wfFrom_mono {m : Memory} {lo hi : Nat} (hle : lo ≤ hi) (h : m.wfFrom hi = true) :
    m.wfFrom lo = true := by
  cases m with
  | nil => rfl
  | cons c rest =>
    simp only [wfFrom, Bool.and_eq_true, decide_eq_true_eq] at h ⊢
    exact ⟨⟨hle.trans h.1.1, h.1.2⟩, h.2⟩

/-- Below its lowest admissible address a canonical memory lists nothing. -/
theorem Memory.get_below {m : Memory} {lo a : Nat} (h : m.wfFrom lo = true) (ha : a < lo) :
    m.get a = unlisted := by
  induction m generalizing lo with
  | nil => rfl
  | cons c rest ih =>
    simp only [wfFrom, Bool.and_eq_true, decide_eq_true_eq] at h
    have hne : a ≠ c.1 := by omega
    simpa [get, hne] using ih h.2 (by omega)

/-- A write keeps the canonical form, from any lowest address not above the one written. -/
theorem Memory.wfFrom_set {m : Memory} {lo a : Nat} (b : Byte) (h : m.wfFrom lo = true) (ha : lo ≤ a) :
    (m.set a b).wfFrom lo = true := by
  induction m generalizing lo with
  | nil =>
    unfold set
    split
    · rfl
    · simp_all [wfFrom]
  | cons c rest ih =>
    have h0 := h
    simp only [wfFrom, Bool.and_eq_true, decide_eq_true_eq] at h
    unfold set
    split
    · split
      · exact h0
      · next hlt hb =>
        simp only [wfFrom, Bool.and_eq_true, decide_eq_true_eq]
        exact ⟨⟨ha, hb⟩, ⟨hlt, h.1.2⟩, h.2⟩
    · split
      · split
        · exact wfFrom_mono (by omega) h.2
        · next heq hb =>
          simp only [wfFrom, Bool.and_eq_true, decide_eq_true_eq]
          exact ⟨⟨ha, hb⟩, by rw [heq]; exact h.2⟩
      · simp only [wfFrom, Bool.and_eq_true, decide_eq_true_eq]
        exact ⟨h.1, ih h.2 (by omega)⟩

/-- One byte written keeps the canonical form. -/
theorem Memory.wf_set {m : Memory} (a : Nat) (b : Byte) (h : m.wf = true) : (m.set a b).wf = true :=
  wfFrom_set b h (Nat.zero_le a)

/-- A run of bytes written keeps the canonical form. -/
theorem Memory.wf_writeBytes {m : Memory} (a : Nat) (v : List Byte) (h : m.wf = true) :
    (m.writeBytes a v).wf = true := by
  induction v generalizing a with
  | nil => exact h
  | cons b rest ih => exact wf_set a b (ih (a + 1))

/-- A byte reads back as it was written. -/
theorem Memory.get_set_self {m : Memory} {lo : Nat} (a : Nat) (b : Byte) (h : m.wfFrom lo = true) :
    (m.set a b).get a = b := by
  induction m generalizing lo with
  | nil =>
    unfold set
    split <;> simp_all [get]
  | cons c rest ih =>
    have h0 := h
    simp only [wfFrom, Bool.and_eq_true, decide_eq_true_eq] at h
    unfold set
    split
    · next hlt =>
      split
      · next hb =>
        rw [hb]
        exact get_below (lo := c.1) (by simp [wfFrom, h.1.2, h.2]) hlt
      · simp [get]
    · split
      · next heq =>
        split
        · next hb => rw [hb]; exact get_below h.2 (by omega)
        · simp [get]
      · next hne => simpa [get, hne] using ih h.2

/-- A write leaves every other byte alone. -/
theorem Memory.get_set_other {m : Memory} {a a' : Nat} (b : Byte) (hne : a' ≠ a) :
    (m.set a b).get a' = m.get a' := by
  induction m with
  | nil =>
    unfold set
    split <;> simp [get, hne]
  | cons c rest ih =>
    unfold set
    split
    · split <;> simp [get, hne]
    · split
      · next heq =>
        have hc : a' ≠ c.1 := by omega
        split <;> simp [get, hne, hc]
      · by_cases hc : a' = c.1 <;> simp [get, hc, ih]

/-- A run of bytes read is as long as asked for. -/
@[simp] theorem Memory.readBytes_length (m : Memory) (a n : Nat) : (m.readBytes a n).length = n := by
  induction n generalizing a with
  | zero => rfl
  | succ n ih => simp [readBytes, ih]

/-- Byte k of a run of bytes read. -/
theorem Memory.readBytes_getElem? (m : Memory) (a n k : Nat) (hk : k < n) :
    (m.readBytes a n)[k]? = some (m.get (a + k)) := by
  induction n generalizing a k with
  | zero => omega
  | succ n ih =>
    cases k with
    | zero => simp [readBytes]
    | succ k =>
      have h := ih (a + 1) k (by omega)
      simpa [readBytes, Nat.add_assoc, Nat.add_comm 1 k] using h

/-- Outside the bytes written, a run of bytes written leaves memory alone. -/
theorem Memory.get_writeBytes_outside {m : Memory} {a a' : Nat} (v : List Byte)
    (h : a' < a ∨ a + v.length ≤ a') : (m.writeBytes a v).get a' = m.get a' := by
  induction v generalizing a with
  | nil => rfl
  | cons b rest ih =>
    simp only [List.length_cons] at h
    rw [writeBytes, get_set_other b (by omega), ih (by omega)]

/-- Inside the bytes written, a run of bytes written reads back. -/
theorem Memory.get_writeBytes_inside {m : Memory} {a k : Nat} {v : List Byte} (hm : m.wf = true) {b : Byte}
    (h : v[k]? = some b) : (m.writeBytes a v).get (a + k) = b := by
  induction v generalizing a k with
  | nil => simp at h
  | cons c rest ih =>
    cases k with
    | zero =>
      have hb : c = b := by simpa using h
      rw [← hb]
      exact get_set_self (lo := 0) a c (wf_writeBytes (a + 1) rest hm)
    | succ k =>
      have h' := ih (a := a + 1) (k := k) (by simpa using h)
      rw [writeBytes, get_set_other c (by omega), ← h']
      congr 1
      omega

/-- The transport delivers as many bytes as asked for (R139). -/
@[simp] theorem deliver_length (draw k n : Nat) (bytes : List Byte) : (deliver draw k bytes n).length = n := by
  induction n generalizing k bytes with
  | zero => rfl
  | succ n ih => cases bytes <;> simp [deliver, ih]

@[simp] theorem State.rxBytes_length (s : State) (n : Nat) : (s.rxBytes n).length = n := by
  unfold rxBytes
  split <;> simp

/-- An answer that holds as many bytes as asked for is delivered as it is. -/
theorem deliver_full (draw k : Nat) (bytes : List Byte) : deliver draw k bytes bytes.length = bytes := by
  induction bytes generalizing k with
  | nil => rfl
  | cons b rest ih => simp [deliver, ih]

@[simp] theorem memRead_length (m : Memory) (h : Option Handle) (off n : Nat) : (memRead m h off n).length = n := by
  simp [memRead]

/-- The payload of a page is one page long (R92). -/
@[simp] theorem State.payload_length (s : State) : s.payload.length = pageSize := by
  simp [payload]

end Sys2Proof.Machine
end

