-- ==== Sys2Proof/Laws/State.lean ====
section
/-! SUPPORT. The fields of a state after each shared operation, one lemma per field, true by rfl. -/

namespace Sys2Proof.Machine

open Sys2Proof

variable (s : State)

/-! ## emit -/

@[simp] theorem State.emit_init (e : Event) : (s.emit e).init = s.init := rfl
@[simp] theorem State.emit_seq (e : Event) : (s.emit e).seq = s.seq := rfl
@[simp] theorem State.emit_ca (e : Event) : (s.emit e).ca = s.ca := rfl
@[simp] theorem State.emit_cl (e : Event) : (s.emit e).cl = s.cl := rfl
@[simp] theorem State.emit_bp (e : Event) : (s.emit e).bp = s.bp := rfl
@[simp] theorem State.emit_np (e : Event) : (s.emit e).np = s.np := rfl
@[simp] theorem State.emit_pi (e : Event) : (s.emit e).pi = s.pi := rfl
@[simp] theorem State.emit_wes (e : Event) : (s.emit e).wes = s.wes := rfl
@[simp] theorem State.emit_status (e : Event) : (s.emit e).status = s.status := rfl
@[simp] theorem State.emit_fault (e : Event) : (s.emit e).fault = s.fault := rfl
@[simp] theorem State.emit_src (e : Event) : (s.emit e).src = s.src := rfl
@[simp] theorem State.emit_dst (e : Event) : (s.emit e).dst = s.dst := rfl
@[simp] theorem State.emit_trace (e : Event) : (s.emit e).trace = s.trace ++ [e] := rfl
@[simp] theorem State.emit_mark (e : Event) : (s.emit e).mark = s.mark := rfl
@[simp] theorem State.emit_cfg (e : Event) : (s.emit e).cfg = s.cfg := rfl
@[simp] theorem State.emit_mem (e : Event) : (s.emit e).mem = s.mem := rfl
@[simp] theorem State.emit_cmd (e : Event) : (s.emit e).cmd = s.cmd := rfl
@[simp] theorem State.emit_hnd (e : Event) : (s.emit e).hnd = s.hnd := rfl
@[simp] theorem State.emit_host (e : Event) : (s.emit e).host = s.host := rfl
@[simp] theorem State.emit_txAns (e : Event) : (s.emit e).txAns = s.txAns := rfl
@[simp] theorem State.emit_rxAns (e : Event) : (s.emit e).rxAns = s.rxAns := rfl
@[simp] theorem State.emit_nullAns (e : Event) : (s.emit e).nullAns = s.nullAns := rfl
@[simp] theorem State.emit_draws (e : Event) : (s.emit e).draws = s.draws := rfl

/-! ## tookTx -/

@[simp] theorem State.tookTx_init : (s.tookTx).init = s.init := rfl
@[simp] theorem State.tookTx_seq : (s.tookTx).seq = s.seq := rfl
@[simp] theorem State.tookTx_ca : (s.tookTx).ca = s.ca := rfl
@[simp] theorem State.tookTx_cl : (s.tookTx).cl = s.cl := rfl
@[simp] theorem State.tookTx_bp : (s.tookTx).bp = s.bp := rfl
@[simp] theorem State.tookTx_np : (s.tookTx).np = s.np := rfl
@[simp] theorem State.tookTx_pi : (s.tookTx).pi = s.pi := rfl
@[simp] theorem State.tookTx_wes : (s.tookTx).wes = s.wes := rfl
@[simp] theorem State.tookTx_status : (s.tookTx).status = s.status := rfl
@[simp] theorem State.tookTx_fault : (s.tookTx).fault = s.fault := rfl
@[simp] theorem State.tookTx_src : (s.tookTx).src = s.src := rfl
@[simp] theorem State.tookTx_dst : (s.tookTx).dst = s.dst := rfl
@[simp] theorem State.tookTx_trace : (s.tookTx).trace = s.trace := rfl
@[simp] theorem State.tookTx_mark : (s.tookTx).mark = s.mark := rfl
@[simp] theorem State.tookTx_cfg : (s.tookTx).cfg = s.cfg := rfl
@[simp] theorem State.tookTx_mem : (s.tookTx).mem = s.mem := rfl
@[simp] theorem State.tookTx_cmd : (s.tookTx).cmd = s.cmd := rfl
@[simp] theorem State.tookTx_hnd : (s.tookTx).hnd = s.hnd := rfl
@[simp] theorem State.tookTx_host : (s.tookTx).host = s.host := rfl
@[simp] theorem State.tookTx_txAns : (s.tookTx).txAns = s.txAns.tail := rfl
@[simp] theorem State.tookTx_rxAns : (s.tookTx).rxAns = s.rxAns := rfl
@[simp] theorem State.tookTx_nullAns : (s.tookTx).nullAns = s.nullAns := rfl
@[simp] theorem State.tookTx_draws : (s.tookTx).draws = s.draws + 1 := rfl

/-! ## tookRx -/

@[simp] theorem State.tookRx_init : (s.tookRx).init = s.init := rfl
@[simp] theorem State.tookRx_seq : (s.tookRx).seq = s.seq := rfl
@[simp] theorem State.tookRx_ca : (s.tookRx).ca = s.ca := rfl
@[simp] theorem State.tookRx_cl : (s.tookRx).cl = s.cl := rfl
@[simp] theorem State.tookRx_bp : (s.tookRx).bp = s.bp := rfl
@[simp] theorem State.tookRx_np : (s.tookRx).np = s.np := rfl
@[simp] theorem State.tookRx_pi : (s.tookRx).pi = s.pi := rfl
@[simp] theorem State.tookRx_wes : (s.tookRx).wes = s.wes := rfl
@[simp] theorem State.tookRx_status : (s.tookRx).status = s.status := rfl
@[simp] theorem State.tookRx_fault : (s.tookRx).fault = s.fault := rfl
@[simp] theorem State.tookRx_src : (s.tookRx).src = s.src := rfl
@[simp] theorem State.tookRx_dst : (s.tookRx).dst = s.dst := rfl
@[simp] theorem State.tookRx_trace : (s.tookRx).trace = s.trace := rfl
@[simp] theorem State.tookRx_mark : (s.tookRx).mark = s.mark := rfl
@[simp] theorem State.tookRx_cfg : (s.tookRx).cfg = s.cfg := rfl
@[simp] theorem State.tookRx_mem : (s.tookRx).mem = s.mem := rfl
@[simp] theorem State.tookRx_cmd : (s.tookRx).cmd = s.cmd := rfl
@[simp] theorem State.tookRx_hnd : (s.tookRx).hnd = s.hnd := rfl
@[simp] theorem State.tookRx_host : (s.tookRx).host = s.host := rfl
@[simp] theorem State.tookRx_txAns : (s.tookRx).txAns = s.txAns := rfl
@[simp] theorem State.tookRx_rxAns : (s.tookRx).rxAns = s.rxAns.tail := rfl
@[simp] theorem State.tookRx_nullAns : (s.tookRx).nullAns = s.nullAns := rfl
@[simp] theorem State.tookRx_draws : (s.tookRx).draws = s.draws + 1 := rfl

/-! ## tookNull -/

@[simp] theorem State.tookNull_init : (s.tookNull).init = s.init := rfl
@[simp] theorem State.tookNull_seq : (s.tookNull).seq = s.seq := rfl
@[simp] theorem State.tookNull_ca : (s.tookNull).ca = s.ca := rfl
@[simp] theorem State.tookNull_cl : (s.tookNull).cl = s.cl := rfl
@[simp] theorem State.tookNull_bp : (s.tookNull).bp = s.bp := rfl
@[simp] theorem State.tookNull_np : (s.tookNull).np = s.np := rfl
@[simp] theorem State.tookNull_pi : (s.tookNull).pi = s.pi := rfl
@[simp] theorem State.tookNull_wes : (s.tookNull).wes = s.wes := rfl
@[simp] theorem State.tookNull_status : (s.tookNull).status = s.status := rfl
@[simp] theorem State.tookNull_fault : (s.tookNull).fault = s.fault := rfl
@[simp] theorem State.tookNull_src : (s.tookNull).src = s.src := rfl
@[simp] theorem State.tookNull_dst : (s.tookNull).dst = s.dst := rfl
@[simp] theorem State.tookNull_trace : (s.tookNull).trace = s.trace := rfl
@[simp] theorem State.tookNull_mark : (s.tookNull).mark = s.mark := rfl
@[simp] theorem State.tookNull_cfg : (s.tookNull).cfg = s.cfg := rfl
@[simp] theorem State.tookNull_mem : (s.tookNull).mem = s.mem := rfl
@[simp] theorem State.tookNull_cmd : (s.tookNull).cmd = s.cmd := rfl
@[simp] theorem State.tookNull_hnd : (s.tookNull).hnd = s.hnd := rfl
@[simp] theorem State.tookNull_host : (s.tookNull).host = s.host := rfl
@[simp] theorem State.tookNull_txAns : (s.tookNull).txAns = s.txAns := rfl
@[simp] theorem State.tookNull_rxAns : (s.tookNull).rxAns = s.rxAns := rfl
@[simp] theorem State.tookNull_nullAns : (s.tookNull).nullAns = s.nullAns.tail := rfl
@[simp] theorem State.tookNull_draws : (s.tookNull).draws = s.draws + 1 := rfl

/-! ## transmit -/

@[simp] theorem State.transmit_init (f : List Byte) : (s.transmit f).init = s.init := rfl
@[simp] theorem State.transmit_seq (f : List Byte) : (s.transmit f).seq = s.seq := rfl
@[simp] theorem State.transmit_ca (f : List Byte) : (s.transmit f).ca = s.ca := rfl
@[simp] theorem State.transmit_cl (f : List Byte) : (s.transmit f).cl = s.cl := rfl
@[simp] theorem State.transmit_bp (f : List Byte) : (s.transmit f).bp = s.bp := rfl
@[simp] theorem State.transmit_np (f : List Byte) : (s.transmit f).np = s.np := rfl
@[simp] theorem State.transmit_pi (f : List Byte) : (s.transmit f).pi = s.pi := rfl
@[simp] theorem State.transmit_wes (f : List Byte) : (s.transmit f).wes = s.wes := rfl
@[simp] theorem State.transmit_status (f : List Byte) : (s.transmit f).status = s.status := rfl
@[simp] theorem State.transmit_fault (f : List Byte) : (s.transmit f).fault = s.fault := rfl
@[simp] theorem State.transmit_src (f : List Byte) : (s.transmit f).src = s.src := rfl
@[simp] theorem State.transmit_dst (f : List Byte) : (s.transmit f).dst = s.dst := rfl
@[simp] theorem State.transmit_trace (f : List Byte) : (s.transmit f).trace = s.trace ++ [.tx s.cfg.devAddr f s.txAnswer] := rfl
@[simp] theorem State.transmit_mark (f : List Byte) : (s.transmit f).mark = s.mark := rfl
@[simp] theorem State.transmit_cfg (f : List Byte) : (s.transmit f).cfg = s.cfg := rfl
@[simp] theorem State.transmit_mem (f : List Byte) : (s.transmit f).mem = s.mem := rfl
@[simp] theorem State.transmit_cmd (f : List Byte) : (s.transmit f).cmd = s.cmd := rfl
@[simp] theorem State.transmit_hnd (f : List Byte) : (s.transmit f).hnd = s.hnd := rfl
@[simp] theorem State.transmit_host (f : List Byte) : (s.transmit f).host = s.host := rfl
@[simp] theorem State.transmit_txAns (f : List Byte) : (s.transmit f).txAns = s.txAns.tail := rfl
@[simp] theorem State.transmit_rxAns (f : List Byte) : (s.transmit f).rxAns = s.rxAns := rfl
@[simp] theorem State.transmit_nullAns (f : List Byte) : (s.transmit f).nullAns = s.nullAns := rfl
@[simp] theorem State.transmit_draws (f : List Byte) : (s.transmit f).draws = s.draws + 1 := rfl

/-! ## receive -/

@[simp] theorem State.receive_init (n : Nat) : (s.receive n).init = s.init := rfl
@[simp] theorem State.receive_seq (n : Nat) : (s.receive n).seq = s.seq := rfl
@[simp] theorem State.receive_ca (n : Nat) : (s.receive n).ca = s.ca := rfl
@[simp] theorem State.receive_cl (n : Nat) : (s.receive n).cl = s.cl := rfl
@[simp] theorem State.receive_bp (n : Nat) : (s.receive n).bp = s.bp := rfl
@[simp] theorem State.receive_np (n : Nat) : (s.receive n).np = s.np := rfl
@[simp] theorem State.receive_pi (n : Nat) : (s.receive n).pi = s.pi := rfl
@[simp] theorem State.receive_wes (n : Nat) : (s.receive n).wes = s.wes := rfl
@[simp] theorem State.receive_status (n : Nat) : (s.receive n).status = s.status := rfl
@[simp] theorem State.receive_fault (n : Nat) : (s.receive n).fault = s.fault := rfl
@[simp] theorem State.receive_src (n : Nat) : (s.receive n).src = s.src := rfl
@[simp] theorem State.receive_dst (n : Nat) : (s.receive n).dst = s.dst := rfl
@[simp] theorem State.receive_trace (n : Nat) : (s.receive n).trace = s.trace ++ [.rx s.cfg.devAddr n s.rxStatus (s.rxBytes n)] := rfl
@[simp] theorem State.receive_mark (n : Nat) : (s.receive n).mark = s.mark := rfl
@[simp] theorem State.receive_cfg (n : Nat) : (s.receive n).cfg = s.cfg := rfl
@[simp] theorem State.receive_mem (n : Nat) : (s.receive n).mem = s.mem := rfl
@[simp] theorem State.receive_cmd (n : Nat) : (s.receive n).cmd = s.cmd := rfl
@[simp] theorem State.receive_hnd (n : Nat) : (s.receive n).hnd = s.hnd := rfl
@[simp] theorem State.receive_host (n : Nat) : (s.receive n).host = s.host := rfl
@[simp] theorem State.receive_txAns (n : Nat) : (s.receive n).txAns = s.txAns := rfl
@[simp] theorem State.receive_rxAns (n : Nat) : (s.receive n).rxAns = s.rxAns.tail := rfl
@[simp] theorem State.receive_nullAns (n : Nat) : (s.receive n).nullAns = s.nullAns := rfl
@[simp] theorem State.receive_draws (n : Nat) : (s.receive n).draws = s.draws + 1 := rfl

/-! ## complete -/

@[simp] theorem State.complete_init (op : Op) (st : Status) : (s.complete op st).init = s.init := rfl
@[simp] theorem State.complete_seq (op : Op) (st : Status) : (s.complete op st).seq = .idle := rfl
@[simp] theorem State.complete_ca (op : Op) (st : Status) : (s.complete op st).ca = s.ca := rfl
@[simp] theorem State.complete_cl (op : Op) (st : Status) : (s.complete op st).cl = s.cl := rfl
@[simp] theorem State.complete_bp (op : Op) (st : Status) : (s.complete op st).bp = s.bp := rfl
@[simp] theorem State.complete_np (op : Op) (st : Status) : (s.complete op st).np = s.np := rfl
@[simp] theorem State.complete_pi (op : Op) (st : Status) : (s.complete op st).pi = s.pi := rfl
@[simp] theorem State.complete_wes (op : Op) (st : Status) : (s.complete op st).wes = s.wes := rfl
@[simp] theorem State.complete_status (op : Op) (st : Status) : (s.complete op st).status = some st := rfl
@[simp] theorem State.complete_fault (op : Op) (st : Status) : (s.complete op st).fault = s.fault := rfl
@[simp] theorem State.complete_src (op : Op) (st : Status) : (s.complete op st).src = s.src := rfl
@[simp] theorem State.complete_dst (op : Op) (st : Status) : (s.complete op st).dst = s.dst := rfl
@[simp] theorem State.complete_trace (op : Op) (st : Status) : (s.complete op st).trace = s.trace ++ [.done op st] := rfl
@[simp] theorem State.complete_mark (op : Op) (st : Status) : (s.complete op st).mark = s.mark := rfl
@[simp] theorem State.complete_cfg (op : Op) (st : Status) : (s.complete op st).cfg = s.cfg := rfl
@[simp] theorem State.complete_mem (op : Op) (st : Status) : (s.complete op st).mem = s.mem := rfl
@[simp] theorem State.complete_cmd (op : Op) (st : Status) : (s.complete op st).cmd = s.cmd := rfl
@[simp] theorem State.complete_hnd (op : Op) (st : Status) : (s.complete op st).hnd = s.hnd := rfl
@[simp] theorem State.complete_host (op : Op) (st : Status) : (s.complete op st).host = s.host := rfl
@[simp] theorem State.complete_txAns (op : Op) (st : Status) : (s.complete op st).txAns = s.txAns := rfl
@[simp] theorem State.complete_rxAns (op : Op) (st : Status) : (s.complete op st).rxAns = s.rxAns := rfl
@[simp] theorem State.complete_nullAns (op : Op) (st : Status) : (s.complete op st).nullAns = s.nullAns := rfl
@[simp] theorem State.complete_draws (op : Op) (st : Status) : (s.complete op st).draws = s.draws := rfl

/-! ## raise -/

@[simp] theorem State.raise_init (r : FaultReason) : (s.raise r).init = s.init := rfl
@[simp] theorem State.raise_seq (r : FaultReason) : (s.raise r).seq = .faulted := rfl
@[simp] theorem State.raise_ca (r : FaultReason) : (s.raise r).ca = s.ca := rfl
@[simp] theorem State.raise_cl (r : FaultReason) : (s.raise r).cl = s.cl := rfl
@[simp] theorem State.raise_bp (r : FaultReason) : (s.raise r).bp = s.bp := rfl
@[simp] theorem State.raise_np (r : FaultReason) : (s.raise r).np = s.np := rfl
@[simp] theorem State.raise_pi (r : FaultReason) : (s.raise r).pi = s.pi := rfl
@[simp] theorem State.raise_wes (r : FaultReason) : (s.raise r).wes = s.wes := rfl
@[simp] theorem State.raise_status (r : FaultReason) : (s.raise r).status = s.status := rfl
@[simp] theorem State.raise_fault (r : FaultReason) : (s.raise r).fault = some r := rfl
@[simp] theorem State.raise_src (r : FaultReason) : (s.raise r).src = s.src := rfl
@[simp] theorem State.raise_dst (r : FaultReason) : (s.raise r).dst = s.dst := rfl
@[simp] theorem State.raise_trace (r : FaultReason) : (s.raise r).trace = s.trace ++ [.faulted r] := rfl
@[simp] theorem State.raise_mark (r : FaultReason) : (s.raise r).mark = s.mark := rfl
@[simp] theorem State.raise_cfg (r : FaultReason) : (s.raise r).cfg = s.cfg := rfl
@[simp] theorem State.raise_mem (r : FaultReason) : (s.raise r).mem = s.mem := rfl
@[simp] theorem State.raise_cmd (r : FaultReason) : (s.raise r).cmd = s.cmd := rfl
@[simp] theorem State.raise_hnd (r : FaultReason) : (s.raise r).hnd = s.hnd := rfl
@[simp] theorem State.raise_host (r : FaultReason) : (s.raise r).host = s.host := rfl
@[simp] theorem State.raise_txAns (r : FaultReason) : (s.raise r).txAns = s.txAns := rfl
@[simp] theorem State.raise_rxAns (r : FaultReason) : (s.raise r).rxAns = s.rxAns := rfl
@[simp] theorem State.raise_nullAns (r : FaultReason) : (s.raise r).nullAns = s.nullAns := rfl
@[simp] theorem State.raise_draws (r : FaultReason) : (s.raise r).draws = s.draws := rfl

/-! ## accept -/

@[simp] theorem State.accept_init : (s.accept).init = s.init := rfl
@[simp] theorem State.accept_seq : (s.accept).seq = s.seq := rfl
@[simp] theorem State.accept_ca : (s.accept).ca = s.ca := rfl
@[simp] theorem State.accept_cl : (s.accept).cl = s.cl := rfl
@[simp] theorem State.accept_bp : (s.accept).bp = s.bp := rfl
@[simp] theorem State.accept_np : (s.accept).np = s.np := rfl
@[simp] theorem State.accept_pi : (s.accept).pi = s.pi := rfl
@[simp] theorem State.accept_wes : (s.accept).wes = s.wes := rfl
@[simp] theorem State.accept_status : (s.accept).status = s.status := rfl
@[simp] theorem State.accept_fault : (s.accept).fault = s.fault := rfl
@[simp] theorem State.accept_src : (s.accept).src = s.src := rfl
@[simp] theorem State.accept_dst : (s.accept).dst = s.dst := rfl
@[simp] theorem State.accept_trace : (s.accept).trace = s.trace := rfl
@[simp] theorem State.accept_mark : (s.accept).mark = s.mark := rfl
@[simp] theorem State.accept_cfg : (s.accept).cfg = s.cfg := rfl
@[simp] theorem State.accept_mem : (s.accept).mem = s.mem := rfl
@[simp] theorem State.accept_cmd : (s.accept).cmd = none := rfl
@[simp] theorem State.accept_hnd : (s.accept).hnd = s.hnd := rfl
@[simp] theorem State.accept_host : (s.accept).host = s.host := rfl
@[simp] theorem State.accept_txAns : (s.accept).txAns = s.txAns := rfl
@[simp] theorem State.accept_rxAns : (s.accept).rxAns = s.rxAns := rfl
@[simp] theorem State.accept_nullAns : (s.accept).nullAns = s.nullAns := rfl
@[simp] theorem State.accept_draws : (s.accept).draws = s.draws := rfl

/-! ## latchWrite -/

@[simp] theorem State.latchWrite_init (bp : Bool) (a : Addr) (l : Len) : (s.latchWrite bp a l).init = s.init := rfl
@[simp] theorem State.latchWrite_seq (bp : Bool) (a : Addr) (l : Len) : (s.latchWrite bp a l).seq = s.seq := rfl
@[simp] theorem State.latchWrite_ca (bp : Bool) (a : Addr) (l : Len) : (s.latchWrite bp a l).ca = a := rfl
@[simp] theorem State.latchWrite_cl (bp : Bool) (a : Addr) (l : Len) : (s.latchWrite bp a l).cl = l := rfl
@[simp] theorem State.latchWrite_bp (bp : Bool) (a : Addr) (l : Len) : (s.latchWrite bp a l).bp = bp := rfl
@[simp] theorem State.latchWrite_np (bp : Bool) (a : Addr) (l : Len) : (s.latchWrite bp a l).np = s.np := rfl
@[simp] theorem State.latchWrite_pi (bp : Bool) (a : Addr) (l : Len) : (s.latchWrite bp a l).pi = s.pi := rfl
@[simp] theorem State.latchWrite_wes (bp : Bool) (a : Addr) (l : Len) : (s.latchWrite bp a l).wes = s.wes := rfl
@[simp] theorem State.latchWrite_status (bp : Bool) (a : Addr) (l : Len) : (s.latchWrite bp a l).status = s.status := rfl
@[simp] theorem State.latchWrite_fault (bp : Bool) (a : Addr) (l : Len) : (s.latchWrite bp a l).fault = s.fault := rfl
@[simp] theorem State.latchWrite_src (bp : Bool) (a : Addr) (l : Len) : (s.latchWrite bp a l).src = s.presentedHandle bp := rfl
@[simp] theorem State.latchWrite_dst (bp : Bool) (a : Addr) (l : Len) : (s.latchWrite bp a l).dst = s.dst := rfl
@[simp] theorem State.latchWrite_trace (bp : Bool) (a : Addr) (l : Len) : (s.latchWrite bp a l).trace = s.trace := rfl
@[simp] theorem State.latchWrite_mark (bp : Bool) (a : Addr) (l : Len) : (s.latchWrite bp a l).mark = s.mark := rfl
@[simp] theorem State.latchWrite_cfg (bp : Bool) (a : Addr) (l : Len) : (s.latchWrite bp a l).cfg = s.cfg := rfl
@[simp] theorem State.latchWrite_mem (bp : Bool) (a : Addr) (l : Len) : (s.latchWrite bp a l).mem = s.mem := rfl
@[simp] theorem State.latchWrite_cmd (bp : Bool) (a : Addr) (l : Len) : (s.latchWrite bp a l).cmd = none := rfl
@[simp] theorem State.latchWrite_hnd (bp : Bool) (a : Addr) (l : Len) : (s.latchWrite bp a l).hnd = s.hnd := rfl
@[simp] theorem State.latchWrite_host (bp : Bool) (a : Addr) (l : Len) : (s.latchWrite bp a l).host = s.host := rfl
@[simp] theorem State.latchWrite_txAns (bp : Bool) (a : Addr) (l : Len) : (s.latchWrite bp a l).txAns = s.txAns := rfl
@[simp] theorem State.latchWrite_rxAns (bp : Bool) (a : Addr) (l : Len) : (s.latchWrite bp a l).rxAns = s.rxAns := rfl
@[simp] theorem State.latchWrite_nullAns (bp : Bool) (a : Addr) (l : Len) : (s.latchWrite bp a l).nullAns = s.nullAns := rfl
@[simp] theorem State.latchWrite_draws (bp : Bool) (a : Addr) (l : Len) : (s.latchWrite bp a l).draws = s.draws := rfl

/-! ## latchRead -/

@[simp] theorem State.latchRead_init (bp : Bool) (a : Addr) (l : Len) : (s.latchRead bp a l).init = s.init := rfl
@[simp] theorem State.latchRead_seq (bp : Bool) (a : Addr) (l : Len) : (s.latchRead bp a l).seq = s.seq := rfl
@[simp] theorem State.latchRead_ca (bp : Bool) (a : Addr) (l : Len) : (s.latchRead bp a l).ca = a := rfl
@[simp] theorem State.latchRead_cl (bp : Bool) (a : Addr) (l : Len) : (s.latchRead bp a l).cl = l := rfl
@[simp] theorem State.latchRead_bp (bp : Bool) (a : Addr) (l : Len) : (s.latchRead bp a l).bp = bp := rfl
@[simp] theorem State.latchRead_np (bp : Bool) (a : Addr) (l : Len) : (s.latchRead bp a l).np = s.np := rfl
@[simp] theorem State.latchRead_pi (bp : Bool) (a : Addr) (l : Len) : (s.latchRead bp a l).pi = s.pi := rfl
@[simp] theorem State.latchRead_wes (bp : Bool) (a : Addr) (l : Len) : (s.latchRead bp a l).wes = s.wes := rfl
@[simp] theorem State.latchRead_status (bp : Bool) (a : Addr) (l : Len) : (s.latchRead bp a l).status = s.status := rfl
@[simp] theorem State.latchRead_fault (bp : Bool) (a : Addr) (l : Len) : (s.latchRead bp a l).fault = s.fault := rfl
@[simp] theorem State.latchRead_src (bp : Bool) (a : Addr) (l : Len) : (s.latchRead bp a l).src = s.src := rfl
@[simp] theorem State.latchRead_dst (bp : Bool) (a : Addr) (l : Len) : (s.latchRead bp a l).dst = s.presentedHandle bp := rfl
@[simp] theorem State.latchRead_trace (bp : Bool) (a : Addr) (l : Len) : (s.latchRead bp a l).trace = s.trace := rfl
@[simp] theorem State.latchRead_mark (bp : Bool) (a : Addr) (l : Len) : (s.latchRead bp a l).mark = s.mark := rfl
@[simp] theorem State.latchRead_cfg (bp : Bool) (a : Addr) (l : Len) : (s.latchRead bp a l).cfg = s.cfg := rfl
@[simp] theorem State.latchRead_mem (bp : Bool) (a : Addr) (l : Len) : (s.latchRead bp a l).mem = s.mem := rfl
@[simp] theorem State.latchRead_cmd (bp : Bool) (a : Addr) (l : Len) : (s.latchRead bp a l).cmd = none := rfl
@[simp] theorem State.latchRead_hnd (bp : Bool) (a : Addr) (l : Len) : (s.latchRead bp a l).hnd = s.hnd := rfl
@[simp] theorem State.latchRead_host (bp : Bool) (a : Addr) (l : Len) : (s.latchRead bp a l).host = s.host := rfl
@[simp] theorem State.latchRead_txAns (bp : Bool) (a : Addr) (l : Len) : (s.latchRead bp a l).txAns = s.txAns := rfl
@[simp] theorem State.latchRead_rxAns (bp : Bool) (a : Addr) (l : Len) : (s.latchRead bp a l).rxAns = s.rxAns := rfl
@[simp] theorem State.latchRead_nullAns (bp : Bool) (a : Addr) (l : Len) : (s.latchRead bp a l).nullAns = s.nullAns := rfl
@[simp] theorem State.latchRead_draws (bp : Bool) (a : Addr) (l : Len) : (s.latchRead bp a l).draws = s.draws := rfl

/-! ## refuse -/

@[simp] theorem State.refuse_init (r : HostRefusal) : (s.refuse r).init = s.init := rfl
@[simp] theorem State.refuse_seq (r : HostRefusal) : (s.refuse r).seq = s.seq := rfl
@[simp] theorem State.refuse_ca (r : HostRefusal) : (s.refuse r).ca = s.ca := rfl
@[simp] theorem State.refuse_cl (r : HostRefusal) : (s.refuse r).cl = s.cl := rfl
@[simp] theorem State.refuse_bp (r : HostRefusal) : (s.refuse r).bp = s.bp := rfl
@[simp] theorem State.refuse_np (r : HostRefusal) : (s.refuse r).np = s.np := rfl
@[simp] theorem State.refuse_pi (r : HostRefusal) : (s.refuse r).pi = s.pi := rfl
@[simp] theorem State.refuse_wes (r : HostRefusal) : (s.refuse r).wes = s.wes := rfl
@[simp] theorem State.refuse_status (r : HostRefusal) : (s.refuse r).status = s.status := rfl
@[simp] theorem State.refuse_fault (r : HostRefusal) : (s.refuse r).fault = s.fault := rfl
@[simp] theorem State.refuse_src (r : HostRefusal) : (s.refuse r).src = s.src := rfl
@[simp] theorem State.refuse_dst (r : HostRefusal) : (s.refuse r).dst = s.dst := rfl
@[simp] theorem State.refuse_trace (r : HostRefusal) : (s.refuse r).trace = s.trace := rfl
@[simp] theorem State.refuse_mark (r : HostRefusal) : (s.refuse r).mark = s.mark ++ [r] := rfl
@[simp] theorem State.refuse_cfg (r : HostRefusal) : (s.refuse r).cfg = s.cfg := rfl
@[simp] theorem State.refuse_mem (r : HostRefusal) : (s.refuse r).mem = s.mem := rfl
@[simp] theorem State.refuse_cmd (r : HostRefusal) : (s.refuse r).cmd = s.cmd := rfl
@[simp] theorem State.refuse_hnd (r : HostRefusal) : (s.refuse r).hnd = s.hnd := rfl
@[simp] theorem State.refuse_host (r : HostRefusal) : (s.refuse r).host = s.host := rfl
@[simp] theorem State.refuse_txAns (r : HostRefusal) : (s.refuse r).txAns = s.txAns := rfl
@[simp] theorem State.refuse_rxAns (r : HostRefusal) : (s.refuse r).rxAns = s.rxAns := rfl
@[simp] theorem State.refuse_nullAns (r : HostRefusal) : (s.refuse r).nullAns = s.nullAns := rfl
@[simp] theorem State.refuse_draws (r : HostRefusal) : (s.refuse r).draws = s.draws := rfl

/-! ## doReset -/

@[simp] theorem State.doReset_init : (s.doReset).init = false := rfl
@[simp] theorem State.doReset_seq : (s.doReset).seq = .idle := rfl
@[simp] theorem State.doReset_ca : (s.doReset).ca = 0 := rfl
@[simp] theorem State.doReset_cl : (s.doReset).cl = 0 := rfl
@[simp] theorem State.doReset_bp : (s.doReset).bp = false := rfl
@[simp] theorem State.doReset_np : (s.doReset).np = 0 := rfl
@[simp] theorem State.doReset_pi : (s.doReset).pi = 0 := rfl
@[simp] theorem State.doReset_wes : (s.doReset).wes = .ok := rfl
@[simp] theorem State.doReset_status : (s.doReset).status = none := rfl
@[simp] theorem State.doReset_fault : (s.doReset).fault = none := rfl
@[simp] theorem State.doReset_src : (s.doReset).src = none := rfl
@[simp] theorem State.doReset_dst : (s.doReset).dst = none := rfl
@[simp] theorem State.doReset_trace : (s.doReset).trace = s.trace := rfl
@[simp] theorem State.doReset_mark : (s.doReset).mark = s.mark := rfl
@[simp] theorem State.doReset_cfg : (s.doReset).cfg = s.cfg := rfl
@[simp] theorem State.doReset_mem : (s.doReset).mem = s.mem := rfl
@[simp] theorem State.doReset_cmd : (s.doReset).cmd = none := rfl
@[simp] theorem State.doReset_hnd : (s.doReset).hnd = s.hnd := rfl
@[simp] theorem State.doReset_host : (s.doReset).host = s.host := rfl
@[simp] theorem State.doReset_txAns : (s.doReset).txAns = s.txAns := rfl
@[simp] theorem State.doReset_rxAns : (s.doReset).rxAns = s.rxAns := rfl
@[simp] theorem State.doReset_nullAns : (s.doReset).nullAns = s.nullAns := rfl
@[simp] theorem State.doReset_draws : (s.doReset).draws = s.draws := rfl

/-! ## setUp -/

@[simp] theorem State.setUp_init : (s.setUp).init = true := by
  unfold State.setUp
  split <;> simp_all
@[simp] theorem State.setUp_seq : (s.setUp).seq = s.seq := by
  unfold State.setUp
  split <;> simp_all
@[simp] theorem State.setUp_ca : (s.setUp).ca = s.ca := by
  unfold State.setUp
  split <;> simp_all
@[simp] theorem State.setUp_cl : (s.setUp).cl = s.cl := by
  unfold State.setUp
  split <;> simp_all
@[simp] theorem State.setUp_bp : (s.setUp).bp = s.bp := by
  unfold State.setUp
  split <;> simp_all
@[simp] theorem State.setUp_np : (s.setUp).np = s.np := by
  unfold State.setUp
  split <;> simp_all
@[simp] theorem State.setUp_pi : (s.setUp).pi = s.pi := by
  unfold State.setUp
  split <;> simp_all
@[simp] theorem State.setUp_wes : (s.setUp).wes = s.wes := by
  unfold State.setUp
  split <;> simp_all
@[simp] theorem State.setUp_status : (s.setUp).status = s.status := by
  unfold State.setUp
  split <;> simp_all
@[simp] theorem State.setUp_fault : (s.setUp).fault = s.fault := by
  unfold State.setUp
  split <;> simp_all
@[simp] theorem State.setUp_src : (s.setUp).src = s.src := by
  unfold State.setUp
  split <;> simp_all
@[simp] theorem State.setUp_dst : (s.setUp).dst = s.dst := by
  unfold State.setUp
  split <;> simp_all
@[simp] theorem State.setUp_mark : (s.setUp).mark = s.mark := by
  unfold State.setUp
  split <;> simp_all
@[simp] theorem State.setUp_cfg : (s.setUp).cfg = s.cfg := by
  unfold State.setUp
  split <;> simp_all
@[simp] theorem State.setUp_mem : (s.setUp).mem = s.mem := by
  unfold State.setUp
  split <;> simp_all
@[simp] theorem State.setUp_cmd : (s.setUp).cmd = s.cmd := by
  unfold State.setUp
  split <;> simp_all
@[simp] theorem State.setUp_hnd : (s.setUp).hnd = s.hnd := by
  unfold State.setUp
  split <;> simp_all
@[simp] theorem State.setUp_host : (s.setUp).host = s.host := by
  unfold State.setUp
  split <;> simp_all
@[simp] theorem State.setUp_txAns : (s.setUp).txAns = s.txAns := by
  unfold State.setUp
  split <;> simp_all
@[simp] theorem State.setUp_rxAns : (s.setUp).rxAns = s.rxAns := by
  unfold State.setUp
  split <;> simp_all
@[simp] theorem State.setUp_nullAns : (s.setUp).nullAns = s.nullAns := by
  unfold State.setUp
  split <;> simp_all
@[simp] theorem State.setUp_draws : (s.setUp).draws = s.draws := by
  unfold State.setUp
  split <;> simp_all

theorem State.setUp_trace : s.setUp.trace = if s.init then s.trace else s.trace ++ [.extInitSetup] := by
  unfold State.setUp
  split <;> rfl

/-! ## sendWe -/

@[simp] theorem State.sendWe_init : (s.sendWe).init = s.init := rfl
@[simp] theorem State.sendWe_seq : (s.sendWe).seq = .wrWp := rfl
@[simp] theorem State.sendWe_ca : (s.sendWe).ca = s.ca := rfl
@[simp] theorem State.sendWe_cl : (s.sendWe).cl = s.cl := rfl
@[simp] theorem State.sendWe_bp : (s.sendWe).bp = s.bp := rfl
@[simp] theorem State.sendWe_np : (s.sendWe).np = s.np := rfl
@[simp] theorem State.sendWe_pi : (s.sendWe).pi = s.pi := rfl
@[simp] theorem State.sendWe_wes : (s.sendWe).wes = s.txAnswer := rfl
@[simp] theorem State.sendWe_status : (s.sendWe).status = s.status := rfl
@[simp] theorem State.sendWe_fault : (s.sendWe).fault = s.fault := rfl
@[simp] theorem State.sendWe_src : (s.sendWe).src = s.src := rfl
@[simp] theorem State.sendWe_dst : (s.sendWe).dst = s.dst := rfl
@[simp] theorem State.sendWe_trace : (s.sendWe).trace = s.trace ++ [.tx s.cfg.devAddr encWE s.txAnswer] := rfl
@[simp] theorem State.sendWe_mark : (s.sendWe).mark = s.mark := rfl
@[simp] theorem State.sendWe_cfg : (s.sendWe).cfg = s.cfg := rfl
@[simp] theorem State.sendWe_mem : (s.sendWe).mem = s.mem := rfl
@[simp] theorem State.sendWe_cmd : (s.sendWe).cmd = s.cmd := rfl
@[simp] theorem State.sendWe_hnd : (s.sendWe).hnd = s.hnd := rfl
@[simp] theorem State.sendWe_host : (s.sendWe).host = s.host := rfl
@[simp] theorem State.sendWe_txAns : (s.sendWe).txAns = s.txAns.tail := rfl
@[simp] theorem State.sendWe_rxAns : (s.sendWe).rxAns = s.rxAns := rfl
@[simp] theorem State.sendWe_nullAns : (s.sendWe).nullAns = s.nullAns := rfl
@[simp] theorem State.sendWe_draws : (s.sendWe).draws = s.draws + 1 := rfl

/-! ## sendWp -/

@[simp] theorem State.sendWp_init (a : Addr) (d : List Byte) : (s.sendWp a d).init = s.init := by
  unfold State.sendWp
  simp only []
  split <;> rfl
@[simp] theorem State.sendWp_ca (a : Addr) (d : List Byte) : (s.sendWp a d).ca = s.ca := by
  unfold State.sendWp
  simp only []
  split <;> rfl
@[simp] theorem State.sendWp_cl (a : Addr) (d : List Byte) : (s.sendWp a d).cl = s.cl := by
  unfold State.sendWp
  simp only []
  split <;> rfl
@[simp] theorem State.sendWp_bp (a : Addr) (d : List Byte) : (s.sendWp a d).bp = s.bp := by
  unfold State.sendWp
  simp only []
  split <;> rfl
@[simp] theorem State.sendWp_np (a : Addr) (d : List Byte) : (s.sendWp a d).np = s.np := by
  unfold State.sendWp
  simp only []
  split <;> rfl
@[simp] theorem State.sendWp_wes (a : Addr) (d : List Byte) : (s.sendWp a d).wes = s.wes := by
  unfold State.sendWp
  simp only []
  split <;> rfl
@[simp] theorem State.sendWp_fault (a : Addr) (d : List Byte) : (s.sendWp a d).fault = s.fault := by
  unfold State.sendWp
  simp only []
  split <;> rfl
@[simp] theorem State.sendWp_src (a : Addr) (d : List Byte) : (s.sendWp a d).src = s.src := by
  unfold State.sendWp
  simp only []
  split <;> rfl
@[simp] theorem State.sendWp_dst (a : Addr) (d : List Byte) : (s.sendWp a d).dst = s.dst := by
  unfold State.sendWp
  simp only []
  split <;> rfl
@[simp] theorem State.sendWp_mark (a : Addr) (d : List Byte) : (s.sendWp a d).mark = s.mark := by
  unfold State.sendWp
  simp only []
  split <;> rfl
@[simp] theorem State.sendWp_cfg (a : Addr) (d : List Byte) : (s.sendWp a d).cfg = s.cfg := by
  unfold State.sendWp
  simp only []
  split <;> rfl
@[simp] theorem State.sendWp_mem (a : Addr) (d : List Byte) : (s.sendWp a d).mem = s.mem := by
  unfold State.sendWp
  simp only []
  split <;> rfl
@[simp] theorem State.sendWp_cmd (a : Addr) (d : List Byte) : (s.sendWp a d).cmd = s.cmd := by
  unfold State.sendWp
  simp only []
  split <;> rfl
@[simp] theorem State.sendWp_hnd (a : Addr) (d : List Byte) : (s.sendWp a d).hnd = s.hnd := by
  unfold State.sendWp
  simp only []
  split <;> rfl
@[simp] theorem State.sendWp_host (a : Addr) (d : List Byte) : (s.sendWp a d).host = s.host := by
  unfold State.sendWp
  simp only []
  split <;> rfl
@[simp] theorem State.sendWp_txAns (a : Addr) (d : List Byte) : (s.sendWp a d).txAns = s.txAns.tail := by
  unfold State.sendWp
  simp only []
  split <;> rfl
@[simp] theorem State.sendWp_rxAns (a : Addr) (d : List Byte) : (s.sendWp a d).rxAns = s.rxAns := by
  unfold State.sendWp
  simp only []
  split <;> rfl
@[simp] theorem State.sendWp_nullAns (a : Addr) (d : List Byte) : (s.sendWp a d).nullAns = s.nullAns := by
  unfold State.sendWp
  simp only []
  split <;> rfl
@[simp] theorem State.sendWp_draws (a : Addr) (d : List Byte) : (s.sendWp a d).draws = s.draws + 1 := by
  unfold State.sendWp
  simp only []
  split <;> rfl

/-! ## takeRx -/

@[simp] theorem State.takeRx_init : (s.takeRx).init = s.init := rfl
@[simp] theorem State.takeRx_seq : (s.takeRx).seq = .idle := rfl
@[simp] theorem State.takeRx_ca : (s.takeRx).ca = s.ca := rfl
@[simp] theorem State.takeRx_cl : (s.takeRx).cl = s.cl := rfl
@[simp] theorem State.takeRx_bp : (s.takeRx).bp = s.bp := rfl
@[simp] theorem State.takeRx_np : (s.takeRx).np = s.np := rfl
@[simp] theorem State.takeRx_pi : (s.takeRx).pi = s.pi := rfl
@[simp] theorem State.takeRx_wes : (s.takeRx).wes = s.wes := rfl
@[simp] theorem State.takeRx_status : (s.takeRx).status = some s.rxStatus := rfl
@[simp] theorem State.takeRx_fault : (s.takeRx).fault = s.fault := rfl
@[simp] theorem State.takeRx_src : (s.takeRx).src = s.src := rfl
@[simp] theorem State.takeRx_dst : (s.takeRx).dst = s.dst := rfl
@[simp] theorem State.takeRx_trace : (s.takeRx).trace = s.trace ++ [.rx s.cfg.devAddr s.cl.toNat s.rxStatus (s.rxBytes s.cl.toNat)] ++ [.done .read s.rxStatus] := rfl
@[simp] theorem State.takeRx_mark : (s.takeRx).mark = s.mark := rfl
@[simp] theorem State.takeRx_cfg : (s.takeRx).cfg = s.cfg := rfl
@[simp] theorem State.takeRx_mem : (s.takeRx).mem = memWrite s.mem s.dst 0 (s.rxBytes s.cl.toNat) := rfl
@[simp] theorem State.takeRx_cmd : (s.takeRx).cmd = s.cmd := rfl
@[simp] theorem State.takeRx_hnd : (s.takeRx).hnd = s.hnd := rfl
@[simp] theorem State.takeRx_host : (s.takeRx).host = s.host := rfl
@[simp] theorem State.takeRx_txAns : (s.takeRx).txAns = s.txAns := rfl
@[simp] theorem State.takeRx_rxAns : (s.takeRx).rxAns = s.rxAns.tail := rfl
@[simp] theorem State.takeRx_nullAns : (s.takeRx).nullAns = s.nullAns := rfl
@[simp] theorem State.takeRx_draws : (s.takeRx).draws = s.draws + 1 := rfl
/-- The last page of a Write completes it (R125, R126). -/
theorem State.sendWp_last (a : Addr) (d : List Byte) (h : s.lastPage = true) :
    s.sendWp a d = (s.transmit (encWP a d)).complete .write (pairStatus s.wes s.txAnswer) := by
  simp [State.sendWp, h]

/-- A page before the last goes on to the next one (R127). -/
theorem State.sendWp_next (a : Addr) (d : List Byte) (h : s.lastPage = false) :
    s.sendWp a d = { s.transmit (encWP a d) with pi := s.pi + 1, seq := .wrWe } := by
  simp [State.sendWp, h]

/-! ## The record of a fault entry -/

@[simp] theorem State.emit_reachedFaulted (s : State) (e : Event) :
    (s.emit e).reachedFaulted = (s.reachedFaulted || e.isFault) := by
  simp [State.reachedFaulted]

/-- A fault entry is recorded (R152). -/
@[simp] theorem State.raise_reachedFaulted (s : State) (r : FaultReason) : (s.raise r).reachedFaulted = true := by
  simp [State.reachedFaulted, Event.isFault]

/-- A reset keeps the record: it does not touch the trace (R180). -/
@[simp] theorem State.doReset_reachedFaulted (s : State) : s.doReset.reachedFaulted = s.reachedFaulted := rfl

/-- A trace that goes on keeps the record. -/
theorem State.reachedFaulted_of_trace {s t : State} {es : List Event} (h : t.trace = s.trace ++ es)
    (hs : s.reachedFaulted = true) : t.reachedFaulted = true := by
  simp [State.reachedFaulted, h] at hs ⊢
  exact .inl hs

end Sys2Proof.Machine
end

