-- ==== Sys2Proof/Laws/Step.lean ====
section
/-! SUPPORT. What a step can do, said once: the block's step by its cases, the host's step, and the whole. -/

namespace Sys2Proof.Machine

open Sys2Proof

/-- What each instruction can answer with. -/
theorem execInit_cases {s t : State} (h : execInit s = .next t) :
    (s.seq = .idle ∧ t = s.accept.setUp.complete .init .ok) ∨ (s.seq ≠ .idle ∧ s.seq ≠ .faulted ∧ t = s) := by
  unfold execInit at h
  split at h
  · exact .inl ⟨‹_›, by injection h with h; exact h.symm⟩
  · unfold State.held at h
    split at h <;> simp_all

theorem execWrite_cases {bp : Bool} {a : Addr} {l : Len} {s t : State} (h : execWrite bp a l s = .next t) :
    (s.seq = .idle ∧ (s.latchWrite bp a l).writePre = true ∧
      t = { s.latchWrite bp a l with np := pageCount l, pi := 0, seq := .wrWe }) ∨
    (s.seq = .idle ∧ (s.latchWrite bp a l).writePre = false ∧ t = (s.latchWrite bp a l).complete .write .notOk) ∨
    (s.seq ≠ .idle ∧ s.seq ≠ .faulted ∧ t = s) := by
  unfold execWrite at h
  split at h
  · next hs =>
    injection h with h
    split at h
    · next hp => exact .inl ⟨hs, hp, h.symm⟩
    · next hp => exact .inr (.inl ⟨hs, by simpa using hp, h.symm⟩)
  · unfold State.held at h
    split at h <;> simp_all

theorem execRead_cases {bp : Bool} {a : Addr} {l : Len} {s t : State} (h : execRead bp a l s = .next t) :
    (s.seq = .idle ∧ (s.latchRead bp a l).readPre = true ∧ t = { s.latchRead bp a l with seq := .rdSra }) ∨
    (s.seq = .idle ∧ (s.latchRead bp a l).readPre = false ∧ t = (s.latchRead bp a l).complete .read .notOk) ∨
    (s.seq ≠ .idle ∧ s.seq ≠ .faulted ∧ t = s) := by
  unfold execRead at h
  split at h
  · next hs =>
    injection h with h
    split at h
    · next hp => exact .inl ⟨hs, hp, h.symm⟩
    · next hp => exact .inr (.inl ⟨hs, by simpa using hp, h.symm⟩)
  · unfold State.held at h
    split at h <;> simp_all

theorem execFrameWe_cases {s t : State} (h : execFrameWe s = .next t) :
    (s.seq = .wrWe ∧ s.nullSourceOpen = true ∧ s.nullEarly = true ∧ t = s.tookNull.raise (.nullSource 0)) ∨
    (s.seq = .wrWe ∧ s.nullSourceOpen = true ∧ s.nullEarly = false ∧ t = s.tookNull.sendWe) ∨
    (s.seq = .wrWe ∧ s.nullSourceOpen = false ∧ t = s.sendWe) ∨
    (s.seq ≠ .wrWe ∧ s.seq ≠ .faulted ∧ t = s) := by
  unfold execFrameWe at h
  split at h
  · next hs =>
    injection h with h
    split at h
    · next ho =>
      split at h
      · next he => exact .inl ⟨hs, ho, he, h.symm⟩
      · next he => exact .inr (.inl ⟨hs, ho, by simpa using he, h.symm⟩)
    · next ho => exact .inr (.inr (.inl ⟨hs, by simpa using ho, h.symm⟩))
  · unfold State.held at h
    split at h <;> simp_all

theorem execFrameWp_cases {a : Addr} {d : List Byte} {s t : State} (h : execFrameWp a d s = .next t) :
    (s.seq = .wrWp ∧ d.length = pageSize ∧ s.bp = false ∧ t = s.raise (.nullSource 0)) ∨
    (s.seq = .wrWp ∧ d.length = pageSize ∧ s.bp = true ∧ s.srcShort = true ∧ t = s.raise (.srcOverrun s.pi)) ∨
    (s.seq = .wrWp ∧ d.length = pageSize ∧ s.bp = true ∧ s.srcShort = false ∧ t = s.sendWp a d) ∨
    (s.seq ≠ .wrWp ∧ s.seq ≠ .faulted ∧ t = s) := by
  unfold execFrameWp at h
  split at h
  · next hs =>
    split at h
    · exact Host.Outcome.noConfusion rfl rfl rfl (heq_of_eq h)
    · next hd =>
      have hd := Decidable.not_not.mp hd
      injection h with h
      split at h
      · next hb => exact .inl ⟨hs, hd, by simpa using hb, h.symm⟩
      · next hb =>
        have hb : s.bp = true := by simpa using hb
        split at h
        · next ho => exact .inr (.inl ⟨hs, hd, hb, ho, h.symm⟩)
        · next ho => exact .inr (.inr (.inl ⟨hs, hd, hb, by simpa using ho, h.symm⟩))
  · unfold State.held at h
    split at h <;> simp_all

theorem execFrameSra_cases {a : Addr} {s t : State} (h : execFrameSra a s = .next t) :
    (s.seq = .rdSra ∧ s.txAnswer = .notOk ∧ t = (s.transmit (encSRA a)).complete .read .notOk) ∨
    (s.seq = .rdSra ∧ s.txAnswer = .ok ∧ t = { s.transmit (encSRA a) with seq := .rdRx }) ∨
    (s.seq ≠ .rdSra ∧ s.seq ≠ .faulted ∧ t = s) := by
  unfold execFrameSra at h
  split at h
  · next hs =>
    injection h with h
    split at h
    · next ha => exact .inl ⟨hs, ha, h.symm⟩
    · next ha => exact .inr (.inl ⟨hs, by cases hx : s.txAnswer <;> simp_all, h.symm⟩)
  · unfold State.held at h
    split at h <;> simp_all

/-- A refused word is of `OP` 00 or has reserved bits; a word that decodes is a host command (R80). -/
theorem decodeHost_ok_cases {w : CmdWord} {i : Instr} (h : decodeHost w = .ok i) :
    i = .init ∨ i = .write (bpField w) (addrField w) (lenField w) ∨
      i = .read (bpField w) (addrField w) (lenField w) := by
  unfold decodeHost at h
  repeat' split at h
  all_goals simp_all

/-- Every way in which the block's step can answer a next state: the state it is taken in, and the one it
answers. -/
inductive BlockCase (u : State) : State → Prop where
  | wait (hs : u.seq = .idle) (hc : u.cmd = none) : BlockCase u u
  | refused (w : CmdWord) (r : HostRefusal) (hs : u.seq = .idle) (hc : u.cmd = some w)
      (hd : decodeHost w = .error r) : BlockCase u (u.accept.refuse r)
  | init (w : CmdWord) (hs : u.seq = .idle) (hc : u.cmd = some w) (hd : decodeHost w = .ok .init) :
      BlockCase u (u.accept.setUp.complete .init .ok)
  | writeStart (w : CmdWord) (bp : Bool) (a : Addr) (l : Len) (hs : u.seq = .idle) (hc : u.cmd = some w)
      (hd : decodeHost w = .ok (.write bp a l)) (hp : (u.latchWrite bp a l).writePre = true) :
      BlockCase u { u.latchWrite bp a l with np := pageCount l, pi := 0, seq := .wrWe }
  | writeReject (w : CmdWord) (bp : Bool) (a : Addr) (l : Len) (hs : u.seq = .idle) (hc : u.cmd = some w)
      (hd : decodeHost w = .ok (.write bp a l)) (hp : (u.latchWrite bp a l).writePre = false) :
      BlockCase u ((u.latchWrite bp a l).complete .write .notOk)
  | readStart (w : CmdWord) (bp : Bool) (a : Addr) (l : Len) (hs : u.seq = .idle) (hc : u.cmd = some w)
      (hd : decodeHost w = .ok (.read bp a l)) (hp : (u.latchRead bp a l).readPre = true) :
      BlockCase u { u.latchRead bp a l with seq := .rdSra }
  | readReject (w : CmdWord) (bp : Bool) (a : Addr) (l : Len) (hs : u.seq = .idle) (hc : u.cmd = some w)
      (hd : decodeHost w = .ok (.read bp a l)) (hp : (u.latchRead bp a l).readPre = false) :
      BlockCase u ((u.latchRead bp a l).complete .read .notOk)
  | nullEarly (hs : u.seq = .wrWe) (ho : u.nullSourceOpen = true) (he : u.nullEarly = true) :
      BlockCase u (u.tookNull.raise (.nullSource 0))
  | nullLate (hs : u.seq = .wrWe) (ho : u.nullSourceOpen = true) (he : u.nullEarly = false) :
      BlockCase u u.tookNull.sendWe
  | writeEnable (hs : u.seq = .wrWe) (ho : u.nullSourceOpen = false) : BlockCase u u.sendWe
  | nullSource (hs : u.seq = .wrWp) (hb : u.bp = false) : BlockCase u (u.raise (.nullSource 0))
  | srcOverrun (hs : u.seq = .wrWp) (hb : u.bp = true) (ho : u.srcShort = true) :
      BlockCase u (u.raise (.srcOverrun u.pi))
  | writePage (hs : u.seq = .wrWp) (hb : u.bp = true) (ho : u.srcShort = false) :
      BlockCase u (u.sendWp u.target u.payload)
  | selectFails (hs : u.seq = .rdSra) (ha : u.txAnswer = .notOk) :
      BlockCase u ((u.transmit (encSRA u.ca)).complete .read .notOk)
  | select (hs : u.seq = .rdSra) (ha : u.txAnswer = .ok) :
      BlockCase u { u.transmit (encSRA u.ca) with seq := .rdRx }
  | nullDest (hs : u.seq = .rdRx) (hb : u.bp = false) : BlockCase u (u.raise .nullDest)
  | dstOverrun (hs : u.seq = .rdRx) (hb : u.bp = true) (ho : u.dstShort = true) :
      BlockCase u (u.raise (.dstOverrun u.cl))
  | receive (hs : u.seq = .rdRx) (hb : u.bp = true) (ho : u.dstShort = false) : BlockCase u u.takeRx

/-- Everything the block's step can do. -/
theorem blockStep_cases {u t : State} (h : blockStep u = .next t) : BlockCase u t := by
  unfold blockStep at h
  split at h
  · next hs =>
    unfold idleStep at h
    split at h
    · next hc => injection h with h; subst h; exact .wait hs hc
    · next w hc =>
      split at h
      · next i hd =>
        rcases decodeHost_ok_cases hd with rfl | rfl | rfl
        · rcases execInit_cases h with ⟨-, rfl⟩ | ⟨hn, -⟩
          · exact .init w hs hc hd
          · exact absurd hs hn
        · rcases execWrite_cases h with ⟨-, hp, rfl⟩ | ⟨-, hp, rfl⟩ | ⟨hn, -⟩
          · exact .writeStart w _ _ _ hs hc hd hp
          · exact .writeReject w _ _ _ hs hc hd hp
          · exact absurd hs hn
        · rcases execRead_cases h with ⟨-, hp, rfl⟩ | ⟨-, hp, rfl⟩ | ⟨hn, -⟩
          · exact .readStart w _ _ _ hs hc hd hp
          · exact .readReject w _ _ _ hs hc hd hp
          · exact absurd hs hn
      · next r hd => injection h with h; subst h; exact .refused w r hs hc hd
  · next hs =>
    rcases execFrameWe_cases h with ⟨-, ho, he, rfl⟩ | ⟨-, ho, he, rfl⟩ | ⟨-, ho, rfl⟩ | ⟨hn, -⟩
    · exact .nullEarly hs ho he
    · exact .nullLate hs ho he
    · exact .writeEnable hs ho
    · exact absurd hs hn
  · next hs =>
    rcases execFrameWp_cases h with ⟨-, -, hb, rfl⟩ | ⟨-, -, hb, ho, rfl⟩ | ⟨-, -, hb, ho, rfl⟩ | ⟨hn, -⟩
    · exact .nullSource hs hb
    · exact .srcOverrun hs hb ho
    · exact .writePage hs hb ho
    · exact absurd hs hn
  · next hs =>
    rcases execFrameSra_cases h with ⟨-, ha, rfl⟩ | ⟨-, ha, rfl⟩ | ⟨hn, -⟩
    · exact .selectFails hs ha
    · exact .select hs ha
    · exact absurd hs hn
  · next hs =>
    injection h with h
    unfold receiveStep at h
    split at h
    · next hb => subst h; exact .nullDest hs (by simpa using hb)
    · next hb =>
      have hb : u.bp = true := by simpa using hb
      split at h
      · next ho => subst h; exact .dstOverrun hs hb ho
      · next ho => subst h; exact .receive hs hb (by simpa using ho)
  · exact Host.Outcome.noConfusion rfl rfl rfl (heq_of_eq h)

/-- When the turn is the block's, its state is the whole state but for a yield taken off the host's list. -/
theorem blocksTurn_cases {s u : State} (h : blocksTurn s = some u) :
    u = s ∨ ∃ rest, s.host = .yield :: rest ∧ u = { s with host := rest } := by
  unfold blocksTurn at h
  split at h
  · exact .inl (Option.some.inj h).symm
  · next rest hh => exact .inr ⟨rest, hh, (Option.some.inj h).symm⟩
  · split at h
    · exact .inl (Option.some.inj h).symm
    · simp at h
  all_goals simp at h

/-- When the turn is not the block's, the host has an action that it can do. -/
theorem hostsTurn_cases {s : State} (h : blocksTurn s = none) :
    (∃ w hd rest, s.host = .present w hd :: rest ∧ s.cmd = none) ∨ (∃ rest, s.host = .reset :: rest) ∨
      (∃ rest, s.host = .readStatus :: rest) ∨ (∃ a b rest, s.host = .poke a b :: rest) := by
  unfold blocksTurn at h
  split at h
  · simp at h
  · simp at h
  · next w hd rest hh =>
    split at h
    · simp at h
    · next hc => exact .inl ⟨w, hd, rest, hh, by simpa using hc⟩
  · next rest hh => exact .inr (.inl ⟨rest, hh⟩)
  · next rest hh => exact .inr (.inr (.inl ⟨rest, hh⟩))
  · next a b rest hh => exact .inr (.inr (.inr ⟨a, b, rest, hh⟩))

/-- Everything a step can do: the block's step, or one of the host's. -/
theorem step_cases {s t : State} (h : step s = .next t) :
    (∃ u, blocksTurn s = some u ∧ BlockCase u t) ∨
    (∃ w hd rest, s.host = .present w hd :: rest ∧ s.cmd = none ∧
      t = { s with host := rest, cmd := some w, hnd := hd }) ∨
    (∃ rest, s.host = .reset :: rest ∧ t = { s with host := rest }.doReset) ∨
    (∃ rest, s.host = .readStatus :: rest ∧
      t = if s.status.isNone then { s with host := rest }.refuse .statusUnset else { s with host := rest }) ∨
    (∃ a b rest, s.host = .poke a b :: rest ∧ t = { s with host := rest, mem := s.mem.set a b }) := by
  unfold step wholeStep at h
  split at h
  · next u hu => exact .inl ⟨u, hu, blockStep_cases h⟩
  · next hn =>
    injection h with h
    subst h
    rcases hostsTurn_cases hn with ⟨w, hd, rest, hh, hc⟩ | ⟨rest, hh⟩ | ⟨rest, hh⟩ | ⟨a, b, rest, hh⟩
    · exact .inr (.inl ⟨w, hd, rest, hh, hc, by simp [hostStep, hh, hostAct]⟩)
    · exact .inr (.inr (.inl ⟨rest, hh, by simp [hostStep, hh, hostAct]⟩))
    · exact .inr (.inr (.inr (.inl ⟨rest, hh, by simp [hostStep, hh, hostAct]⟩)))
    · exact .inr (.inr (.inr (.inr ⟨a, b, rest, hh, by simp [hostStep, hh, hostAct]⟩)))

/-- With nothing for the host to do, a step is the block's. -/
theorem step_of_host_nil {s : State} (h : s.host = []) : step s = blockStep s := by
  simp [step, wholeStep, blocksTurn, h]

/-- A run whose first step answers a next state goes on from there. -/
theorem steps_succ {s t : State} (k : Nat) (h : step s = .next t) : steps (k + 1) s = steps k t := by
  rw [steps, h]

/-- A run whose first step stops has stopped. -/
theorem steps_fault {s : State} {f : Fault} (k : Nat) (h : step s = .fault f) : steps (k + 1) s = .fault f := by
  rw [steps, h]

theorem steps_refused {s : State} {r : Refusal} (k : Nat) (h : step s = .refused r) :
    steps (k + 1) s = .refused r := by
  rw [steps, h]

/-- A run that answers a next state after one more step has taken that step. -/
theorem steps_succ_inv {s t : State} {k : Nat} (h : steps (k + 1) s = .next t) :
    ∃ u, step s = .next u ∧ steps k u = .next t := by
  rw [steps] at h
  split at h
  · next u hs => exact ⟨u, hs, h⟩
  · cases h
  · cases h

/-- Runs compose. -/
theorem steps_add {s t : State} (j k : Nat) (h : steps j s = .next t) : steps (j + k) s = steps k t := by
  induction j generalizing s with
  | zero =>
    cases h
    rw [Nat.zero_add]
  | succ j ih =>
    obtain ⟨u, hs, h⟩ := steps_succ_inv h
    rw [Nat.add_right_comm, steps_succ (j + k) hs]
    exact ih h

/-- A run of any machine, unfolded by one step. -/
theorem coreRun_next (M : Host.Core) {s t : M.State} (k : Nat) (h : M.step s = .next t) :
    M.run (k + 1) s = M.run k t := by
  rw [Host.Core.run, h]

theorem coreRun_fault (M : Host.Core) {s : M.State} {f : M.Fault} (k : Nat) (h : M.step s = .fault f) :
    M.run (k + 1) s = .fault f := by
  rw [Host.Core.run, h]

theorem coreRun_refused (M : Host.Core) {s : M.State} {r : M.Refusal} (k : Nat) (h : M.step s = .refused r) :
    M.run (k + 1) s = .refused r := by
  rw [Host.Core.run, h]

/-- The run of the host's interface is this one. -/
theorem run_core_eq (k : Nat) (s : State) : Host.Core.run core k s = steps k s := by
  induction k generalizing s with
  | zero => rfl
  | succ k ih =>
    cases h : step s with
    | next t => exact (coreRun_next core k h).trans ((ih t).trans (steps_succ k h).symm)
    | fault f => exact (coreRun_fault core k h).trans (steps_fault k h).symm
    | refused r => exact (coreRun_refused core k h).trans (steps_refused k h).symm

end Sys2Proof.Machine
end

