-- ==== Sys2Proof/Laws/PerInstr.lean ====
section
/-! SUPPORT. Facts about every instruction as syntax, one lemma per constructor. -/

/-- The width in bits that the opcode table gives an instruction (R58, R70, R78). -/
def Sys2Proof.Laws.CodedWidth.tableWidth : Sys2Proof.Instr → Nat
  | .init => 40
  | .write _ _ _ => 40
  | .read _ _ _ => 40
  | .frameWe => 8
  | .frameWp _ _ => 2072
  | .frameSra _ => 24

/-- The coded form of a well-formed instruction is as wide as its row of the opcode table (R78). -/
def Sys2Proof.Laws.CodedWidth.Statement (i : Sys2Proof.Instr) : Prop :=
  i.WellFormed → (Sys2Proof.encode i).width = Sys2Proof.Laws.CodedWidth.tableWidth i

namespace Sys2Proof.Laws.CodedWidth

open Sys2Proof

theorem init : Statement .init := fun _ => rfl

theorem write (bp : Bool) (addr : Addr) (len : Len) : Statement (.write bp addr len) := fun _ => rfl

theorem read (bp : Bool) (addr : Addr) (len : Len) : Statement (.read bp addr len) := fun _ => rfl

theorem frameWe : Statement .frameWe := fun _ => rfl

theorem frameWp (addr : Addr) (data : List Byte) : Statement (.frameWp addr data) := by
  intro h
  have hd : data.length = 256 := by simpa [Instr.WellFormed, Instr.wellFormed] using h
  simp [encode, encWP, Coded.width, tableWidth, hd]

theorem frameSra (addr : Addr) : Statement (.frameSra addr) := fun _ => rfl

end Sys2Proof.Laws.CodedWidth
end

