-- ==== Sys2Proof/Machine/Notation.lean ====
section
/-! DEFINITION. The textual forms of R81: the lines a host program is written in, read from text, and the
events of a trace, written as text (log entry 16). -/

namespace Sys2Proof.Machine

open Sys2Proof

/-! ## Reading a line -/

/-- The value of a digit, decimal or hexadecimal. -/
def digitValue (c : Char) : Option Nat :=
  let n := c.toNat
  if 48 ≤ n ∧ n ≤ 57 then some (n - 48)
  else if 65 ≤ n ∧ n ≤ 70 then some (n - 55)
  else if 97 ≤ n ∧ n ≤ 102 then some (n - 87)
  else none

/-- Digits of a base, most significant first, after a number already read. -/
def digits (base acc : Nat) : List Char → Option Nat
  | [] => some acc
  | c :: rest =>
    match digitValue c with
    | some v => if v < base then digits base (acc * base + v) rest else none
    | none => none

/-- A number: hex after `0x`, otherwise decimal (R81). -/
def number : List Char → Option Nat
  | '0' :: 'x' :: c :: rest => digits 16 0 (c :: rest)
  | c :: rest => digits 10 0 (c :: rest)
  | [] => none

/-- `<addr16>` and `<len16>`: a number from 0 to 65535 (R81). -/
def number16 (cs : List Char) : Option (BitVec 16) :=
  match number cs with
  | some n => if n < 2 ^ 16 then some (BitVec.ofNat 16 n) else none
  | none => none

/-- Text cut at each separator. -/
def cutAt (sep : Char) : List Char → List (List Char)
  | [] => [[]]
  | c :: rest =>
    match cutAt sep rest with
    | piece :: more => if c = sep then [] :: piece :: more else (c :: piece) :: more
    | [] => []

/-- Text without the spaces around it. -/
def trimmed (cs : List Char) : List Char :=
  ((cs.dropWhile (· == ' ')).reverse.dropWhile (· == ' ')).reverse

/-- `<buf>`: the word `null`, or a name, optionally with its size as `name[size]` (R81). R81 does not say which
texts are names. DESIGN CHOICE (log entry 16): any text that is not empty and holds no `,` and no `[`, spaces,
digits and a stray `]` inside it included; and only the bare word `null` is null, so that `null[4]` is a buffer
named null, with `BP` = 1. -/
def bufferText (cs : List Char) : Option AsmBuf :=
  if cs = "null".toList then some .null
  else
    match cutAt '[' cs with
    | [name] => if name = [] then none else some (.named (String.ofList name) none)
    | [name, size] =>
      match cutAt ']' size with
      | [n, []] =>
        match number n with
        | some n => if name = [] then none else some (.named (String.ofList name) (some n))
        | none => none
      | _ => none
    | _ => none

/-- The three operands of WRITE and READ (R81). -/
def operandsText (cs : List Char) : Option (Addr × AsmBuf × Len) :=
  match (cutAt ',' cs).map trimmed with
  | [addr, buf, len] =>
    match number16 addr, bufferText buf, number16 len with
    | some addr, some buf, some len => some (addr, buf, len)
    | _, _, _ => none
  | _ => none

/-- A line of a host program (R81). There are no pseudo-instructions (R82). -/
def parseLine (line : String) : Option AsmLine :=
  let cs := trimmed line.toList
  let mnemonic := cs.takeWhile (· != ' ')
  let rest := cs.dropWhile (· != ' ')
  if mnemonic = "INIT".toList then (if rest = [] then some .init else none)
  else if mnemonic = "WRITE".toList then (operandsText rest).map fun (addr, buf, len) => .write addr buf len
  else if mnemonic = "READ".toList then (operandsText rest).map fun (addr, buf, len) => .read addr buf len
  else none

/-! ## Writing an event -/

/-- The character of a hexadecimal digit. -/
def hexDigit (v : Nat) : Char := Char.ofNat (if v < 10 then 48 + v else 55 + v)

/-- A 16-bit value in hex, as the spec's examples write it. -/
def hex16 (a : BitVec 16) : String :=
  String.ofList
    ['0', 'x', hexDigit (a.toNat / 4096), hexDigit (a.toNat / 256 % 16), hexDigit (a.toNat / 16 % 16),
      hexDigit (a.toNat % 16)]

/-- A status as the traces write it. -/
def statusText : Status → String
  | .ok => "Ok"
  | .notOk => "NotOk"

/-- An operation as the traces write it. -/
def Op.text : Op → String
  | .init => "INIT"
  | .write => "WRITE"
  | .read => "READ"

/-- An event as R81 writes it; `buf` and `page` name the source slice of a write-page transmit, which the event
itself does not. R81 gives no spelling to the other two kinds of event, nor to a frame the block never
emits. -/
def Event.text (buf : String) (page : Nat) : Event → Option String
  | .tx _ frame st =>
    match decodeFrame frame with
    | .ok .frameWe => some ("TX WE -> " ++ statusText st)
    | .ok (.frameWp addr _) =>
      some ("TX WP " ++ hex16 addr ++ ", " ++ buf ++ "[" ++ (page * pageSize).repr ++ ".." ++
        (page * pageSize + pageSize).repr ++ ") -> " ++ statusText st)
    | .ok (.frameSra addr) => some ("TX SRA " ++ hex16 addr ++ " -> " ++ statusText st)
    | _ => none
  | .rx _ n st _ => some ("RX " ++ n.repr ++ " -> " ++ statusText st)
  | .done op st => some ("DONE " ++ op.text ++ " " ++ statusText st)
  | .extInitSetup => none
  | .faulted _ => none

end Sys2Proof.Machine
end

