-- ==== Sys2Proof/Tests/Slice0.lean ====
section
/-! SUPPORT. The model's own tests. Every expected value is taken from spec/95_test_vectors.md,
spec/30_encoding.md or spec/40_frames.md, or worked out by hand from a numbered rule. -/

namespace Sys2Proof.Tests

open Sys2Proof Sys2Proof.Machine

/-! ## Well-formedness and decoding -/

theorem test_wellFormed_refuses_short_payload : (Instr.frameWp 0 [0x00]).wellFormed = false := by decide

theorem test_wellFormed_accepts_page : (Instr.frameWp 0x0100 (List.replicate 256 0x5A)).wellFormed = true := by
  decide +kernel

/-- 30_encoding.md R75 and 95_test_vectors.md 2.2. -/
theorem test_decode_init : decodeHost 0x0000000001 = .ok .init := by decide

theorem test_decode_init_ignores_high_bits : decodeHost 0xFFFFFFFFFD = .ok .init := by decide

theorem test_decode_write : decodeHost 0x0200010006 = .ok (.write true 0x0100 0x0200) := by decide

theorem test_decode_write_null : decodeHost 0x0200010002 = .ok (.write false 0x0100 0x0200) := by decide

theorem test_decode_read : decodeHost 0x000A005007 = .ok (.read true 0x0050 10) := by decide

theorem test_decode_read_all_ones : decodeHost 0xFFFFFFFF07 = .ok (.read true 0xFFFF 0xFFFF) := by decide

theorem test_decode_reserved_op : decodeHost 0x0000000000 = .error .reservedOp := by decide

theorem test_decode_reserved_op_with_bp : decodeHost 0x0000000004 = .error .reservedOp := by decide

theorem test_decode_reserved_bits : decodeHost 0x020001000E = .error .reservedBits := by decide

/-- WRITE written out from R71: LEN 0xFF00, ADDR 0x1234, RSV 00000, BP 1, OP 10. -/
theorem test_decode_write_bits :
    decodeHost 0b1111111100000000_0001001000110100_00000_1_10 = .ok (.write true 0x1234 0xFF00) := by decide

/-- The frames of R76; 95_test_vectors.md 2.1. -/
theorem test_decode_frame_we : decodeFrame [0x10] = .ok .frameWe := by decide

theorem test_decode_frame_sra : decodeFrame [0x20, 0xAB, 0xCD] = .ok (.frameSra 0xABCD) := by decide

theorem test_decode_frame_wp :
    decodeFrame ([0x12, 0x12, 0x34] ++ List.replicate 256 0x12) =
      .ok (.frameWp 0x1234 (List.replicate 256 0x12)) := by decide +kernel

theorem test_decode_frame_unknown : decodeFrame [0x11] = .error .unknownOpcode := by decide

theorem test_decode_frame_short : decodeFrame [0x20, 0xAB] = .error .tooShort := by decide

theorem test_decode_frame_long : decodeFrame [0x10, 0x10] = .error .tooLong := by decide

/-- R78: byte 0 alone tells where the next frame of a stream begins. -/
theorem test_decode_stream : decodeStream [0x20, 0x00, 0x50, 0x10] = .ok (.frameSra 0x0050, [0x10]) := by decide

theorem test_encode_write : encode (.write true 0x0100 0x0200) = .host 0x0200010006 := by decide +kernel

theorem test_encode_read : encode (.read true 0x0050 10) = .host 0x000A005007 := by decide +kernel

theorem test_encode_init : encode .init = .host 0x0000000001 := by decide +kernel

theorem test_encSRA : encSRA 0x0050 = [0x20, 0x00, 0x50] := by decide

theorem test_encWP_head : (encWP 0x0080 (List.replicate 256 0xFF)).take 4 = [0x12, 0x00, 0x80, 0xFF] := by decide

theorem test_assemble_null : assemble (.write 0x0100 .null 0x0200) = 0x0200010002 := by decide +kernel

/-- The rows of the opcode table, as the table numbers their bits. -/
theorem test_table_host_rows :
    decodeTableWord 40 0x0000000001 = some .init ∧ decodeTableWord 40 0x0000000002 = some (.write false 0 0) ∧
      decodeTableWord 40 0x0000000003 = some (.read false 0 0) := by decide

theorem test_table_frame_rows :
    decodeTableWord 8 0x10 = some .frameWe ∧ decodeTableWord 24 0xCDAB20 = some (.frameSra 0xABCD) := by decide

theorem test_table_page_row :
    decodeTableWord 2072 (0x343412 + 0xA5 * 2 ^ 2064) =
      some (.frameWp 0x3434 (List.replicate 255 0 ++ [0xA5])) := by decide +kernel

theorem test_table_refuses : decodeTableWord 40 0x20 = none ∧ decodeTableWord 8 0x14 = none := by decide

/-! ## The textual forms of R81 -/

/-- L1.2's calls as lines, a null buffer (2.2), and a length one too large. -/
theorem test_parse_lines :
    (parseLine "WRITE 0x0100, buf[512], 0x0200").map assemble = some 0x0200010006 ∧
      (parseLine "READ  0x0050, null, 10").map assemble = some 0x000A005003 ∧
      (parseLine "INIT").map assemble = some 1 ∧ parseLine "WRITE 0x0100, buf, 65536" = none := by decide +kernel

theorem test_event_text :
    (Event.tx 0x20 [0x20, 0x00, 0xAB] .ok).text "" 0 = some "TX SRA 0x00AB -> Ok" ∧
      (Event.tx 0x20 (encWP 0x0200 (List.replicate 256 0)) .notOk).text "buf" 1 =
        some "TX WP 0x0200, buf[256..512) -> NotOk" ∧
      (Event.rx 0x20 10 .ok []).text "" 0 = some "RX 10 -> Ok" ∧
      (Event.done .write .notOk).text "" 0 = some "DONE WRITE NotOk" := by decide +kernel

/-! ## Steps -/

/-- The reference configuration, Initialized, idle, with the given answers of the transport. -/
def ready (txs : List Status) (rxs : List RxAnswer) : State :=
  { State.reset with init := true, status := some .ok, txAns := txs, rxAns := rxs }

/-- A command presented with a buffer at address 0 of the given size. -/
def State.withCmd (s : State) (w : CmdWord) (size : Nat) : State :=
  { s with cmd := some w, hnd := { base := 0, size := size } }

/-- A page of zeros. -/
def page : List Byte := List.replicate 256 0

/-- The reference configuration, Initialized, in the given sequencer state, with a source and a destination of
512 bytes, `CL` = 0x0200, two pages, and the transport answering `Ok`. -/
def mid (q : Seq) : State :=
  { ready [.ok, .ok, .ok] [] with
    seq := q, cl := 0x0200, bp := true, np := 2, src := some ⟨0, 512⟩, dst := some ⟨0, 512⟩ }

/-- The same under the literal check, with null buffers. -/
def midNull (q : Seq) : State :=
  { mid q with cfg := { Config.reference with bufCheck := .literal }, bp := false, src := none, dst := none }

/-- Whether an outcome is a next state. -/
def isNext : Host.Outcome State Fault Refusal → Bool
  | .next _ => true
  | .fault _ => false
  | .refused _ => false

theorem next_of_isNext {o : Host.Outcome State Fault Refusal} (h : isNext o = true) : ∃ t, o = .next t := by
  cases o with
  | next t => exact ⟨t, rfl⟩
  | fault _ => cases h
  | refused _ => cases h

/-- A view of the state that one step answers. -/
def next {α : Type} (s : State) (view : State → α) : Option α :=
  match step s with
  | .next t => some (view t)
  | .fault _ => none
  | .refused _ => none

/-- I-1: the first INIT. -/
theorem test_init_first :
    next (State.withCmd State.reset 0x0000000001 0) (fun t => (t.trace, t.init, t.status, t.cmd)) =
      some ([.extInitSetup, .done .init .ok], true, some .ok, none) := by decide

/-- I-2: a later INIT. -/
theorem test_init_again :
    next (State.withCmd { ready [] [] with status := some .notOk } 0x0000000001 0) (fun t => (t.trace, t.init, t.status)) =
      some ([.done .init .ok], true, some .ok) := by decide

/-- W-4: a low byte of 0x80. -/
theorem test_write_length_low_byte :
    next (State.withCmd (ready [] []) 0x0180010006 512) (fun t => (t.trace, t.status, t.seq)) =
      some ([.done .write .notOk], some .notOk, .idle) := by decide

/-- W-16: 255 pages (R120). -/
theorem test_write_starts :
    next (State.withCmd (ready [] []) 0xFF00000006 65280) (fun t => (t.seq, t.np, t.pi, t.src)) =
      some (.wrWe, 255, 0, some ⟨0, 65280⟩) := by decide

/-- R-1: uninitialized. -/
theorem test_read_uninitialized :
    next (State.withCmd State.reset 0x000A005007 10) (fun t => (t.trace, t.status, t.seq)) =
      some ([.done .read .notOk], some .notOk, .idle) := by decide

/-- R-12: a null destination passes the literal check (R142). -/
theorem test_read_literal_null :
    next (State.withCmd { ready [] [] with cfg := { Config.reference with bufCheck := .literal } } 0x000A005003 10)
      (fun t => (t.seq, t.ca, t.cl, t.dst, t.trace)) = some (.rdSra, 0x0050, 10, none, []) := by decide

/-- W-13: a write-enable that fails does not stop its page. -/
theorem test_frame_we_fails :
    next { mid .wrWe with txAns := [.notOk] } (fun t => (t.seq, t.wes, t.trace)) =
      some (.wrWp, .notOk, [.tx 0x20 [0x10] .notOk]) := by decide

/-- W-18: the run of a null source that faults before its write-enable frame. -/
theorem test_frame_we_null_source :
    next { midNull .wrWe with nullAns := [true] } (fun t => (t.seq, t.fault, t.trace, t.status)) =
      some (.faulted, some (.nullSource 0), [.faulted (.nullSource 0)], some .ok) := by decide

/-- W-9 and W-13: the last page wraps to 0x0000, and the pair fails with its write-enable. -/
theorem test_frame_wp_wraps :
    next { mid .wrWp with ca := 0xFF00, pi := 1, wes := .notOk }
        (fun t => (t.trace.map (fun e => match e with | .tx _ f _ => f.take 3 | _ => []), t.status, t.seq)) =
      some ([[0x12, 0x00, 0x00], []], some .notOk, .idle) := by decide +kernel

/-- W-17: a source of 300 bytes at page 1. -/
theorem test_frame_wp_overrun :
    next { mid .wrWp with pi := 1, src := some ⟨0, 300⟩ } (fun t => (t.seq, t.fault, t.status, t.trace)) =
      some (.faulted, some (.srcOverrun 1), some .ok, [.faulted (.srcOverrun 1)]) := by decide +kernel

/-- R-8: the highest address. -/
theorem test_frame_sra_ok :
    next { mid .rdSra with ca := 0xFFFF } (fun t => (t.seq, t.trace)) =
      some (.rdRx, [.tx 0x20 [0x20, 0xFF, 0xFF] .ok]) := by decide

/-- R-6: a failed address selection ends the Read. -/
theorem test_frame_sra_fails :
    next { mid .rdSra with ca := 0x0050, txAns := [.notOk] } (fun t => (t.trace, t.status, t.seq)) =
      some ([.tx 0x20 [0x20, 0x00, 0x50] .notOk, .done .read .notOk], some .notOk, .idle) := by decide

/-- R-7: the bytes are written whatever the status; the byte after the last is unchanged. -/
theorem test_receive_fails :
    next { mid .rdRx with cl := 2, dst := some ⟨8, 4⟩, rxAns := [⟨.notOk, [0x01, 0x02]⟩], mem := [(7, 0xEE), (10, 0xEE)] }
        (fun t => (t.trace, t.mem.readBytes 7 4, t.status)) =
      some ([.rx 0x20 2 .notOk [0x01, 0x02], .done .read .notOk], [0xEE, 0x01, 0x02, 0xEE], some .notOk) := by decide

/-- R-10: a destination of five bytes. -/
theorem test_receive_overrun :
    next { mid .rdRx with cl := 10, dst := some ⟨0, 5⟩ } (fun t => (t.seq, t.trace)) =
      some (.faulted, [.faulted (.dstOverrun 10)]) := by decide

/-- A-2: no step in `FAULTED`. -/
theorem test_faulted_has_no_step :
    next (State.withCmd { ready [] [] with seq := .faulted, fault := some .nullDest } 1 0) (fun t => t.seq) = none := by decide

/-- A-3: a reset from `FAULTED`. -/
theorem test_reset_from_faulted :
    next { ready [] [] with seq := .faulted, fault := some .nullDest, trace := [.faulted .nullDest], host := [.reset] }
        (fun t => (t.fault, t.init, t.status, t.trace)) =
      some (none, false, none, [.faulted .nullDest]) := by decide

/-- A-6: a reserved word. -/
theorem test_refused_word :
    next (State.withCmd State.reset 0x0000000000 0) (fun t => (t.mark, t.trace, t.seq, t.status)) =
      some ([.reservedOp], [], .idle, none) := by decide

/-- A-5: `STATUS` read right after reset. -/
theorem test_refused_read :
    next { State.reset with host := [.readStatus] } (fun t => (t.mark, t.status)) = some ([.statusUnset], none) := by decide

/-- The step that runs a frame the opcode table names, right after reset. -/
theorem test_frame_we_first : next (State.reset.withFetchWord 8 0x10) (fun t => t.seq) = some .wrWp := by decide

theorem test_frame_wp_first :
    next (State.reset.withFetchWord 2072 (0x000112 + 0xA5 * 2 ^ 2064))
        (fun t => t.trace.map fun e => match e with | .tx _ f _ => f | _ => []) =
      some [[0x12, 0x01, 0x00] ++ List.replicate 255 0 ++ [0xA5], []] := by decide +kernel

/-! ## Witnesses: states and operands that meet the hypotheses of a statement together -/

theorem witness_DecodeOfEncodeIsTheInstruction :
    (Instr.write true 0xFFFF 0xFF00).WellFormed ∧ (Instr.frameWp 0xFFFF page).WellFormed ∧
      (Instr.frameSra 0x0000).WellFormed := by decide +kernel

theorem witness_EncodeOfDecodeIsTheWord :
    decode (.host 0xFFFFFFFFFD) = .ok .init ∧ decode (.frame [0x20, 0xFF, 0xFF]) = .ok (.frameSra 0xFFFF) := by
  decide

/-- One word for each clause, at the ends of the fields. -/
theorem witness_HostDecodeInOrder :
    (0xFFFFFFFFFC#40).toNat % 4 = 0 ∧ (0xFFFFFFFFFD#40).toNat % 4 = 1 ∧
      (2 ≤ (0x00000000FE#40).toNat % 4 ∧ (0x00000000FE#40).toNat / 8 % 32 ≠ 0) ∧
      (2 ≤ (0x000000000B#40).toNat % 4 ∧ (0x000000000B#40).toNat / 8 % 32 ≠ 0) ∧
      ((0xFFFFFFFF06#40).toNat % 4 = 2 ∧ (0xFFFFFFFF06#40).toNat / 8 % 32 = 0) ∧
      ((0xFFFFFFFF07#40).toNat % 4 = 3 ∧ (0xFFFFFFFF07#40).toNat / 8 % 32 = 0) := by decide

theorem witness_HostWordLayout : decodeHost 0xFFFFFFFF07 = .ok (.read true 0xFFFF 0xFFFF) := by decide

theorem witness_FramesAreBitExact : page.length = 256 ∧ 255 < 256 := by decide +kernel

theorem witness_FrameLengthFromItsOpcode :
    ((0x11 : Byte) ≠ 0x10 ∧ (0x11 : Byte) ≠ 0x12 ∧ (0x11 : Byte) ≠ 0x20) ∧
      (Instr.frameWe.WellFormed ∧ encode .frameWe = .frame [0x10]) ∧
      ∃ t, step (mid .wrWe) = .next t ∧ .tx 0x20 [0x10] .ok ∈ t.trace ∧ .tx 0x20 [0x10] .ok ∉ (mid .wrWe).trace :=
  ⟨by decide, by decide, _, rfl, by decide, by decide⟩

theorem witness_EmittedFramesHaveOneOfThreeForms :
    ∃ t, step (mid .wrWe) = .next t ∧ .tx 0x20 [0x10] .ok ∈ t.trace ∧ .tx 0x20 [0x10] .ok ∉ (mid .wrWe).trace :=
  ⟨_, rfl, by decide, by decide⟩

theorem witness_PayloadIsThePageOfTheSource : (mid .wrWp).src = some ⟨0, 512⟩ ∧ 255 < 256 := by decide

theorem witness_InitCompletesOk :
    State.reset.seq = .idle ∧ State.reset.init = false ∧ (mid .idle).seq = .idle ∧ (mid .idle).init = true := by decide

/-- Each term of the precondition false on its own. -/
theorem witness_FailedWriteCompletesAtOnce :
    State.reset.seq = .idle ∧ State.reset.init = false ∧
      (mid .idle).seq = .idle ∧ bufOk (mid .idle).cfg.bufCheck false = false ∧ (0x0000#16).toNat = 0 ∧
      (0x00FF#16).toNat % 256 ≠ 0 ∧ bufOk (midNull .idle).cfg.bufCheck true = false := by decide

theorem witness_WriteStartsAtPageZero :
    (mid .idle).seq = .idle ∧ (mid .idle).init = true ∧ bufOk (mid .idle).cfg.bufCheck true = true ∧
      (0xFF00#16).toNat ≠ 0 ∧ (0xFF00#16).toNat % 256 = 0 ∧ (0x0100#16).toNat % 256 = 0 := by decide

theorem witness_ReadAcceptance :
    (mid .idle).seq = .idle ∧ (mid .idle).init = true ∧ bufOk (mid .idle).cfg.bufCheck true = true ∧
      (0x0001#16).toNat ≠ 0 ∧ (0xFFFF#16).toNat ≠ 0 ∧ ¬(0x0000#16).toNat ≠ 0 := by decide

/-- A WRITE, a READ and an INIT accepted. -/
theorem witness_AcceptanceLatchesTheOperands :
    (∃ t, step (State.withCmd (mid .idle) 0x0200010006 512) = .next t) ∧
      (∃ t, step (State.withCmd (mid .idle) 0x000A005003 10) = .next t) ∧
      (∃ t, step (State.withCmd (mid .idle) 0x0000000001 0) = .next t) ∧
      (0x0200010006#40).toNat / 8 % 32 = 0 ∧ (0x0200010006#40).toNat % 4 = 2 ∧
      (0x000A005003#40).toNat / 8 % 32 = 0 ∧ (0x000A005003#40).toNat % 4 = 3 ∧ (0x0000000001#40).toNat % 4 = 1 :=
  ⟨⟨_, rfl⟩, ⟨_, rfl⟩, ⟨_, rfl⟩, by decide⟩

theorem witness_HostCommandsKeepTheRest :
    (∃ t, exec .init State.reset = .next t) ∧ (∃ t, exec (.write true 0x0100 0x0200) (mid .idle) = .next t) ∧
      (∃ t, exec (.read true 0x0050 10) (mid .idle) = .next t) :=
  ⟨⟨_, rfl⟩, ⟨_, rfl⟩, ⟨_, rfl⟩⟩

theorem witness_WriteEnableStep :
    (mid .wrWe).seq = .wrWe ∧ ¬((mid .wrWe).cfg.bufCheck = .literal ∧ (mid .wrWe).bp = false ∧ (mid .wrWe).pi = 0) := by
  decide

theorem witness_NullSourceHasTwoRuns :
    ((midNull .wrWe).seq = .wrWe ∧ (midNull .wrWe).cfg.bufCheck = .literal ∧ (midNull .wrWe).bp = false ∧
        (midNull .wrWe).pi = 0) ∧
      ((midNull .wrWp).host = [] ∧ (midNull .wrWp).seq = .wrWp ∧ (midNull .wrWp).cfg.bufCheck = .literal ∧
        (midNull .wrWp).bp = false ∧ (midNull .wrWp).pi = 0) ∧
      ((midNull .idle).cfg.bufCheck = .literal ∧ (midNull .idle).bp = false ∧ (midNull .idle).init = true ∧
        writeLenOk (midNull .idle).cl = true) ∧
      (State.reset.cfg.bufCheck = .intended ∧ State.reset.bp = false) := by decide

/-- The last page of 255 in a source of exactly 65280 bytes, and the first of two. -/
theorem witness_WritePageStep :
    (let s := { mid .wrWp with np := 255, pi := 254, src := some ⟨0, 65280⟩ };
      s.seq = .wrWp ∧ s.bp = true ∧ s.src = some ⟨0, 65280⟩ ∧ s.pi.toNat * 256 + 256 ≤ 65280 ∧
        s.pi.toNat + 1 = s.np.toNat) ∧
      page.length = 256 ∧ (mid .wrWp).pi.toNat * 256 + 256 ≤ 512 ∧ (mid .wrWp).pi.toNat + 1 ≠ (mid .wrWp).np.toNat := by
  decide +kernel

theorem witness_SourceOverrunFaults :
    let s := { mid .wrWp with src := some ⟨0, 255⟩ }
    s.host = [] ∧ s.seq = .wrWp ∧ s.bp = true ∧ handleSize s.src < s.pi.toNat * 256 + 256 := by decide

theorem witness_IllegalPayloadStops :
    (mid .wrWp).seq = .wrWp ∧ (List.replicate 255 (0 : Byte)).length ≠ 256 ∧
      (List.replicate 257 (0 : Byte)).length ≠ 256 := by decide +kernel

theorem witness_SetReadAddressStep :
    ((mid .rdSra).seq = .rdSra ∧ (mid .rdSra).host = [] ∧ (mid .rdSra).txAnswer = .ok) ∧
      ({ mid .rdSra with txAns := [.notOk] }).txAnswer = .notOk := by decide

theorem witness_FramesKeepTheRest :
    (∃ t, exec .frameWe (mid .wrWe) = .next t) ∧
      (∃ t, exec (.frameWp 0x0100 (mid .wrWp).payload) (mid .wrWp) = .next t) ∧
      (∃ t, exec (.frameSra 0x0050) (mid .rdSra) = .next t) :=
  ⟨⟨_, rfl⟩, next_of_isNext (by decide +kernel), ⟨_, rfl⟩⟩

theorem witness_OutOfTurnInstructionsAreHeld :
    (mid .wrWp).seq ≠ .idle ∧ (mid .wrWp).seq ≠ .faulted ∧ (mid .faulted).seq ≠ .rdSra := by decide

theorem witness_ReceiveWritesTheDestination :
    (mid .rdRx).host = [] ∧ (mid .rdRx).seq = .rdRx ∧ (mid .rdRx).bp = true ∧ (mid .rdRx).dst = some ⟨0, 512⟩ ∧
      (mid .rdRx).cl.toNat ≤ 512 ∧ (mid .rdRx).mem.wf = true ∧ 511 < (mid .rdRx).cl.toNat ∧
      0 + (mid .rdRx).cl.toNat ≤ 512 := by decide

theorem witness_DestinationOverrunFaults :
    let s := { mid .rdRx with dst := some ⟨0, 511⟩ }
    s.host = [] ∧ s.seq = .rdRx ∧ s.bp = true ∧ handleSize s.dst < s.cl.toNat := by decide

theorem witness_NullDestinationUnderLiteral :
    (let s := State.withCmd (midNull .idle) 0x000A005003 0;
      s.host = [] ∧ s.seq = .idle ∧ s.init = true ∧ s.cfg.bufCheck = .literal ∧ s.cmd = some 0x000A005003 ∧
        decodeHost 0x000A005003 = .ok (.read false 0x0050 10) ∧ (10#16).toNat ≠ 0 ∧ s.txAnswer = .ok ∧
        ({ s with txAns := [.notOk] }).txAnswer = .notOk) ∧
      State.reset.cfg.bufCheck = .intended ∧ State.reset.bp = false := by decide

theorem witness_StepRunsTheSelectedInstruction :
    (let s := State.withCmd (mid .idle) 0x000A005007 10;
      blocksTurn s = some s ∧ s.seq = .idle ∧ s.cmd = some 0x000A005007 ∧
        decodeHost 0x000A005007 = .ok (.read true 0x0050 10)) ∧
      (blocksTurn { mid .wrWe with host := [.yield] } = some (mid .wrWe) ∧ (mid .wrWe).seq = .wrWe) ∧
      (blocksTurn (mid .wrWp) = some (mid .wrWp) ∧ (mid .wrWp).seq = .wrWp) ∧
      (blocksTurn (mid .rdSra) = some (mid .rdSra) ∧ (mid .rdSra).seq = .rdSra) := by decide

theorem witness_SequencerMovesAsAProgramCounter :
    (∃ t, blocksTurn (mid .wrWp) = some (mid .wrWp) ∧ step (mid .wrWp) = .next t) ∧
      (∃ t, blocksTurn (mid .rdSra) = some (mid .rdSra) ∧ step (mid .rdSra) = .next t) ∧
      (∃ t, blocksTurn (mid .wrWe) = some (mid .wrWe) ∧ step (mid .wrWe) = .next t) ∧
      (∃ t, blocksTurn (mid .idle) = some (mid .idle) ∧ step (mid .idle) = .next t) :=
  ⟨(next_of_isNext (by decide +kernel)).imp fun _ h => ⟨rfl, h⟩, ⟨_, rfl, rfl⟩, ⟨_, rfl, rfl⟩, ⟨_, rfl, rfl⟩⟩

theorem witness_BusyBlockHoldsTheCommand :
    (let s := State.withCmd (mid .rdSra) 0x0000000001 0;
      ∃ t, blocksTurn s = some s ∧ s.seq ≠ .idle ∧ step s = .next t) ∧
      (blocksTurn (mid .faulted) = some (mid .faulted) ∧ (mid .faulted).seq = .faulted) :=
  ⟨⟨_, rfl, by decide, rfl⟩, rfl, rfl⟩

/-- Each clause: a reserved operation, reserved bits, and both reads of `STATUS`. -/
theorem witness_RefusalsSetTheMark :
    ((0x0000000004#40).toNat % 4 = 0 ∧ 2 ≤ (0x020001000E#40).toNat % 4 ∧ (0x020001000E#40).toNat / 8 % 32 ≠ 0) ∧
      (mid .idle).host = [] ∧ (mid .idle).seq = .idle ∧
      (let s := { State.reset with host := [.readStatus] };
        s.host = .readStatus :: [] ∧ s.status = none) ∧
      (let s := { mid .idle with host := [.readStatus] };
        s.host = .readStatus :: [] ∧ s.status ≠ none) ∧
      ∃ t, step (mid .idle) = .next t :=
  ⟨by decide, rfl, rfl, by decide, by decide, ⟨_, rfl⟩⟩

theorem witness_ResetFromAnyState : { mid .wrWp with host := [.reset] }.host = .reset :: [] := by decide

theorem witness_FaultedIsLeftOnlyByReset :
    let s := { mid .faulted with host := [.reset] }
    s.seq = .faulted ∧ ∃ t, step s = .next t ∧ t.seq ≠ .faulted :=
  ⟨rfl, _, rfl, by decide⟩

/-- A fault entry, which changes `FAULT`. -/
theorem witness_FaultRegisterFollowsTheSequencer :
    let s := { mid .rdRx with dst := some ⟨0, 511⟩ }
    ∃ t, step s = .next t ∧ FaultInv s ∧ t.fault ≠ s.fault :=
  ⟨_, rfl, by simp [FaultInv, mid, ready, State.reset], by decide⟩

/-- The invariant in the middle of a Write. -/
theorem witness_EveryStepKeepsTheInvariant : ∃ t, Inv (mid .wrWe) ∧ step (mid .wrWe) = .next t :=
  ⟨_, ⟨by simp [FaultInv, mid, ready, State.reset], fun _ => by decide, fun h => by simp [mid] at h, by decide⟩, rfl⟩

theorem witness_StepAppendsOneLegalTransaction : ∃ t, ReadInv (mid .rdRx) ∧ step (mid .rdRx) = .next t :=
  ⟨_, fun _ => by decide, rfl⟩

/-- `INIT` set by an INIT, and cleared by a reset. -/
theorem witness_InitFlagIsOneWay :
    (∃ t, step (State.withCmd State.reset 1 0) = .next t ∧ t.init ≠ State.reset.init) ∧
      (∃ t, step { mid .idle with host := [.reset] } = .next t ∧ t.init ≠ (mid .idle).init) ∧
      (∃ t, exec .frameWe (mid .wrWe) = .next t) ∧ ∃ t, exec .init (mid .idle) = .next t ∧ (mid .idle).init = true :=
  ⟨⟨_, rfl, by decide⟩, ⟨_, rfl, by decide⟩, ⟨_, rfl⟩, ⟨_, rfl, rfl⟩⟩

theorem witness_ConfigurationIsNeverWritten : ∃ t, step { mid .wrWe with host := [.reset] } = .next t := ⟨_, rfl⟩

/-- A byte changed by the host, and the last byte of a destination changed by a receive. -/
theorem witness_OnlyTheHostAndTheReceiveChangeMemory :
    (∃ t, step { mid .idle with host := [.poke 7 0xAA] } = .next t ∧ t.mem.get 7 ≠ (mid .idle).mem.get 7) ∧
      (let s := { mid .rdRx with cl := 2, rxAns := [⟨.notOk, [0x00, 0x5A]⟩] };
        ∃ t, step s = .next t ∧ t.mem.get 1 ≠ s.mem.get 1) :=
  ⟨⟨_, rfl, by decide⟩, ⟨_, rfl, by decide⟩⟩

theorem witness_CompletionIsOneDoneAndTheStatus : ∃ t, step (State.withCmd State.reset 1 0) = .next t := ⟨_, rfl⟩

/-- Two different states that show the same: the reset state, and one with other registers. -/
theorem witness_UnspecifiedRegistersAreUnobservable :
    State.reset.live = { State.reset with ca := 7, pi := 3, wes := .notOk, src := some ⟨1, 2⟩ }.live ∧
      State.reset ≠ { State.reset with ca := 7, pi := 3, wes := .notOk, src := some ⟨1, 2⟩ } := by decide

/-- Two pages. -/
theorem witness_WriteSendsItsPagesInOrder :
    let s := State.withCmd (mid .idle) 0x0200FF0006 512
    s.host = [] ∧ s.seq = .idle ∧ s.cmd = some 0x0200FF0006 ∧
      decodeHost 0x0200FF0006 = .ok (.write true 0xFF00 0x0200) ∧ (s.latchWrite true 0xFF00 0x0200).writePre = true ∧
      (0x0200#16).toNat ≤ s.hnd.size := by decide

/-- One page, in a source of just its bytes. -/
theorem witness_WriteSendsItsPagesInOrder_one :
    let s := State.withCmd (mid .idle) 0x0100FF0006 256
    s.host = [] ∧ s.seq = .idle ∧ s.cmd = some 0x0100FF0006 ∧
      decodeHost 0x0100FF0006 = .ok (.write true 0xFF00 0x0100) ∧ (s.latchWrite true 0xFF00 0x0100).writePre = true ∧
      (0x0100#16).toNat ≤ s.hnd.size := by decide

/-- The most pages there can be, 255, in a source of just their bytes. -/
theorem witness_WriteSendsItsPagesInOrder_most :
    let s := State.withCmd (mid .idle) 0xFF00FF0006 65280
    s.host = [] ∧ s.seq = .idle ∧ s.cmd = some 0xFF00FF0006 ∧
      decodeHost 0xFF00FF0006 = .ok (.write true 0xFF00 0xFF00) ∧ (s.latchWrite true 0xFF00 0xFF00).writePre = true ∧
      (0xFF00#16).toNat ≤ s.hnd.size :=
  ⟨rfl, rfl, rfl, by decide, by decide, Nat.le_refl 65280⟩

theorem witness_ReadSelectsThenReceives :
    let s := State.withCmd (mid .idle) 0x000A005007 10
    s.host = [] ∧ s.seq = .idle ∧ s.cmd = some 0x000A005007 ∧
      decodeHost 0x000A005007 = .ok (.read true 0x0050 10) ∧ (s.latchRead true 0x0050 10).readPre = true ∧
      (10#16).toNat ≤ s.hnd.size ∧ s.txAnswer = .ok ∧ ({ s with txAns := [.notOk] }).txAnswer = .notOk := by decide

/-- The longest command: 510 steps. -/
theorem witness_EveryCommandEnds :
    let s := { mid .wrWe with cl := 0xFF00, np := 255 }
    s.host = [] ∧ WriteInv s ∧ s.stepsLeft = 510 :=
  ⟨rfl, fun _ => by decide, rfl⟩

/-- A fault entry, and a run on from it that is reset and set up again. -/
theorem witness_ARunThatReachesFaultedNeverEndsWell :
    let s := { mid .rdRx with dst := some ⟨0, 511⟩, host := [.yield, .reset, .present 1 ⟨0, 0⟩] }
    s.seq ≠ .faulted ∧ ∃ t u, step s = .next t ∧ t.seq = .faulted ∧ steps 3 t = .next u ∧ u.seq = .idle :=
  ⟨by decide, _, _, rfl, rfl, rfl, rfl⟩

theorem witness_TheTraceShowsEveryFaultEntry :
    (∃ t, step { mid .idle with trace := [.faulted .nullDest] } = .next t) ∧
      (let s := { mid .rdRx with dst := some ⟨0, 511⟩ };
        ∃ t, step s = .next t ∧ (s.seq = .faulted → s.reachedFaulted = true) ∧ t.seq = .faulted) :=
  ⟨⟨_, rfl⟩, _, rfl, by decide, rfl⟩

/-- A state that no run reaches: the intended check, at page 3. -/
theorem witness_NullSourceFaultsWhateverTheState :
    let s := { mid .wrWp with bp := false, pi := 3 }
    s.host = [] ∧ s.seq = .wrWp ∧ s.bp = false := by decide

theorem witness_ResetKeepsTheMark : { mid .wrWp with host := [.reset] }.host = .reset :: [] := by decide

end Sys2Proof.Tests
end

/-! `FAULT` and `SEQ` move together (R23): what a step can do to the two, and the obligation about them. -/

namespace Sys2Proof.Machine

open Sys2Proof

/-- Fault entry as a step shows it (R152): the reason in `FAULT`, the block in `FAULTED`, one event. -/
def FaultEntry (s t : State) : Prop :=
  ∃ r, t.fault = some r ∧ t.seq = .faulted ∧ t.trace = s.trace ++ [.faulted r]

/-- `raise` is a fault entry, also for a step that changed other fields than the trace before it. -/
theorem faultEntry_raise {s u : State} (r : FaultReason) (htrace : u.trace = s.trace) :
    FaultEntry s (u.raise r) :=
  ⟨r, State.raise_fault u r, State.raise_seq u r, by rw [State.raise_trace, htrace]⟩

/-- The write-page transmit ends the Write or goes on to the next page (R126, R127). -/
theorem State.sendWp_seq (s : State) (a : Addr) (d : List Byte) :
    (s.sendWp a d).seq = if s.lastPage then .idle else .wrWe := by
  cases hl : s.lastPage
  · simp [State.sendWp_next s a d hl]
  · simp [State.sendWp_last s a d hl]

/-- The block takes no step in `FAULTED` (R152). -/
theorem BlockCase.seq_ne_faulted {u t : State} (h : BlockCase u t) : u.seq ≠ .faulted := by
  cases h <;> simp [*]

/-- A step of the block enters `FAULTED` with its event, or keeps `FAULT` and ends outside `FAULTED`. -/
theorem BlockCase.fault_cases {u t : State} (h : BlockCase u t) :
    FaultEntry u t ∨ (t.fault = u.fault ∧ t.seq ≠ .faulted) := by
  cases h with
  | nullEarly => exact .inl (faultEntry_raise _ (State.tookNull_trace u))
  | nullSource | srcOverrun | nullDest | dstOverrun => exact .inl (faultEntry_raise _ rfl)
  | wait hs | refused _ _ hs => exact .inr ⟨rfl, by simp [hs]⟩
  | writePage =>
    refine .inr ⟨State.sendWp_fault u _ _, ?_⟩
    rw [State.sendWp_seq]
    split <;> simp
  | init | writeStart | writeReject | readStart | readReject | nullLate | writeEnable | selectFails | select
  | receive => exact .inr (by simp)

/-- What any step can do to `FAULT`: enter `FAULTED`, clear it by a reset, or keep it and stay on the same side of
`FAULTED`. -/
theorem step_fault_cases {s t : State} (h : step s = .next t) :
    FaultEntry s t ∨
    (t.fault = none ∧ t.seq = .idle ∧ ∃ rest, s.host = .reset :: rest) ∨
    (t.fault = s.fault ∧ (t.seq = .faulted ↔ s.seq = .faulted)) := by
  rcases step_cases h with
    ⟨u, hu, hb⟩ | ⟨w, hd, rest, -, -, rfl⟩ | ⟨rest, hh, rfl⟩ | ⟨rest, -, rfl⟩ | ⟨a, b, rest, -, rfl⟩
  · obtain ⟨hfault, hseq, htrace⟩ : u.fault = s.fault ∧ u.seq = s.seq ∧ u.trace = s.trace := by
      rcases blocksTurn_cases hu with rfl | ⟨rest, -, rfl⟩ <;> exact ⟨rfl, rfl, rfl⟩
    have hrun := hb.seq_ne_faulted
    rcases hb.fault_cases with ⟨r, hf, hs, ht⟩ | ⟨hf, hs⟩
    · exact .inl ⟨r, hf, hs, htrace ▸ ht⟩
    · exact .inr (.inr ⟨hf.trans hfault, iff_of_false hs (hseq ▸ hrun)⟩)
  · exact .inr (.inr ⟨rfl, Iff.rfl⟩)
  · exact .inr (.inl ⟨rfl, rfl, rest, hh⟩)
  · refine .inr (.inr ?_)
    split <;> exact ⟨rfl, Iff.rfl⟩
  · exact .inr (.inr ⟨rfl, Iff.rfl⟩)

/-- Every step keeps the invariant of `FAULT` (R23). -/
theorem step_faultInv {s t : State} (h : step s = .next t) (hinv : FaultInv s) : FaultInv t := by
  rcases step_fault_cases h with ⟨r, hf, hs, -⟩ | ⟨hf, hs, -⟩ | ⟨hf, hs⟩
  · simp [FaultInv, hf, hs]
  · simp [FaultInv, hf, hs]
  · rw [FaultInv, hf, hs]
    exact hinv

/-- Only a fault entry and a reset write `FAULT` (R23). -/
theorem step_fault_ne {s t : State} (h : step s = .next t) (hne : t.fault ≠ s.fault) :
    FaultEntry s t ∨ (t.fault = none ∧ ∃ rest, s.host = .reset :: rest) := by
  rcases step_fault_cases h with he | ⟨hf, -, hreset⟩ | ⟨hf, -⟩
  · exact .inl he
  · exact .inr ⟨hf, hreset⟩
  · exact absurd hf hne

/-- Settles O39, by the cases of what a step can do to `FAULT`. -/
theorem faultRegisterFollowsTheSequencer : Obligations.FaultRegisterFollowsTheSequencer :=
  ⟨rfl, fun _ _ h => ⟨step_faultInv h, step_fault_ne h⟩⟩

end Sys2Proof.Machine

/-! The transport's next answer, where the state lists it (R60, assumption log entry 3), and the obligation about
it. -/

namespace Sys2Proof.Machine

open Sys2Proof

/-- A listed status answers the next transmit. -/
theorem State.txAnswer_of_txAns_cons {s : State} {st : Status} {rest : List Status} (h : s.txAns = st :: rest) :
    s.txAnswer = st := by
  simp only [State.txAnswer, h]

/-- The status of a listed answer is that of the next receive. -/
theorem State.rxStatus_of_rxAns_cons {s : State} {r : RxAnswer} {rest : List RxAnswer} (h : s.rxAns = r :: rest) :
    s.rxStatus = r.status := by
  simp only [State.rxStatus, h]

/-- The bytes of a listed answer, and free ones past their end, are those of the next receive. -/
theorem State.rxBytes_of_rxAns_cons {s : State} {r : RxAnswer} {rest : List RxAnswer} (h : s.rxAns = r :: rest)
    (n : Nat) : s.rxBytes n = deliver s.draws 0 r.bytes n := by
  simp only [State.rxBytes, h]

/-- Settles O12: a listed answer is the transport's answer, whatever it is and whatever else the state holds. -/
theorem anyTransportAnswerIsPossible : Obligations.AnyTransportAnswerIsPossible := by
  refine ⟨fun s st rest => ?transmit, fun s st bytes rest => ⟨?status, ?bytes⟩, State.rxBytes_length⟩
  case transmit => exact State.txAnswer_of_txAns_cons rfl
  case status => exact State.rxStatus_of_rxAns_cons (r := ⟨st, bytes⟩) rfl
  case bytes =>
    rw [State.rxBytes_of_rxAns_cons (r := ⟨st, bytes⟩) rfl]
    exact deliver_full s.draws 0 bytes

end Sys2Proof.Machine

/-! The two coded forms in their bits (R71 to R78): the host word's fields and its decoder, the frames' bytes and
their decoder, the frames a step emits, and the obligations about them. -/

namespace Sys2Proof

/-! ## Host words -/

/-- `RSV` is 0 in a WRITE or READ word (R71, R80). -/
theorem rsvField_of_decodeHost {w : CmdWord} {i : Instr} (h : decodeHost w = .ok i) (hi : i ≠ .init) :
    rsvField w = 0 := by
  by_contra hr
  by_cases h0 : opField w = 0
  · simp [decodeHost_op_zero h0] at h
  by_cases h1 : opField w = 1
  · rw [decodeHost_op_one h1] at h
    exact hi (Except.ok.inj h).symm
  · simp [decodeHost_rsv h0 h1 hr] at h

/-- Settles O3: each field is its bits of the word, and five fields that cover the word sum to it. -/
theorem hostWordLayout : Obligations.HostWordLayout := by
  intro w
  have hw := w.isLt
  refine ⟨opField_toNat w, bpField_toNat w, rsvField_toNat w, addrField_toNat w, lenField_toNat w, ?sum,
    fun i => rsvField_of_decodeHost⟩
  case sum =>
    rw [opField_toNat, bpField_toNat, rsvField_toNat, addrField_toNat, lenField_toNat]
    omega

/-- `OP` is known from its number (R71). -/
theorem opField_eq_iff {w : CmdWord} {k : BitVec 2} : opField w = k ↔ w.toNat % 4 = k.toNat := by
  rw [← BitVec.toNat_inj, opField_toNat]

/-- `RSV` is known to be 0 from its number (R71). -/
theorem rsvField_eq_zero_iff {w : CmdWord} : rsvField w = 0 ↔ w.toNat / 8 % 32 = 0 := by
  rw [← BitVec.toNat_inj, rsvField_toNat]
  rfl

/-- `BP`, read out of the word as a number (R71). -/
theorem bpField_eq (w : CmdWord) : bpField w = (w.toNat / 4 % 2 == 1) := by
  rw [← bpField_toNat]
  cases bpField w <;> rfl

/-- `ADDR`, read out of the word as a number (R71). -/
theorem addrField_eq (w : CmdWord) : addrField w = BitVec.ofNat 16 (w.toNat / 2 ^ 8) :=
  BitVec.eq_of_toNat_eq (by rw [addrField_toNat, BitVec.toNat_ofNat])

/-- `LEN`, read out of the word as a number (R71). -/
theorem lenField_eq (w : CmdWord) : lenField w = BitVec.ofNat 16 (w.toNat / 2 ^ 24) :=
  BitVec.eq_of_toNat_eq (by rw [lenField_toNat, BitVec.toNat_ofNat])

/-- Settles O4, clause by clause: the number fixes `OP` and `RSV`, and with them the case of R80. -/
theorem hostDecodeInOrder : Obligations.HostDecodeInOrder := by
  intro w
  rw [← bpField_eq, ← addrField_eq, ← lenField_eq]
  refine ⟨fun h => ?reservedOp, fun h => ?init, fun h hr => ?reservedBits, fun h hr => ?write, fun h hr => ?read⟩
  case reservedOp => exact decodeHost_op_zero (opField_eq_iff.mpr h)
  case init => exact decodeHost_op_one (opField_eq_iff.mpr h)
  case reservedBits =>
    have h0 : opField w ≠ 0 := fun h0 => by simp [opField_eq_iff.mp h0] at h
    have h1 : opField w ≠ 1 := fun h1 => by simp [opField_eq_iff.mp h1] at h
    exact decodeHost_rsv h0 h1 (mt rsvField_eq_zero_iff.mp hr)
  case write => exact decodeHost_write (opField_eq_iff.mpr h) (rsvField_eq_zero_iff.mpr hr)
  case read => exact decodeHost_read (opField_eq_iff.mpr h) (rsvField_eq_zero_iff.mpr hr)

/-- The word of a host command decodes to the command (R71, R80). -/
theorem decodeHost_of_encode {i : Instr} {w : CmdWord} (h : encode i = .host w) : decodeHost w = .ok i := by
  cases i with
  | init =>
    obtain rfl := Coded.host.inj h
    exact decodeHost_op_one (opField_hostWord _ _ _ _)
  | write bp a l =>
    obtain rfl := Coded.host.inj h
    rw [decodeHost_write (opField_hostWord _ _ _ _) (rsvField_hostWord _ _ _ _)]
    simp
  | read bp a l =>
    obtain rfl := Coded.host.inj h
    rw [decodeHost_read (opField_hostWord _ _ _ _) (rsvField_hostWord _ _ _ _)]
    simp
  | frameWe | frameWp | frameSra => cases h

/-- Settles O5: the three words are computed, and the word of a command decodes to it. -/
theorem workedWordsDecode : Obligations.WorkedWordsDecode := by
  have hinit : encode .init = .host 0x0000000001 := by decide +kernel
  have hwrite : encode (.write true 0x0100 0x0200) = .host 0x0200010006 := by decide +kernel
  have hread : encode (.read true 0x0050 0x000A) = .host 0x000A005007 := by decide +kernel
  exact ⟨hinit, decodeHost_of_encode hinit, hwrite, decodeHost_of_encode hwrite, hread, decodeHost_of_encode hread⟩

/-! ## Frames -/

/-- The high byte of an address as a number (R53). -/
theorem addrHi_eq (a : Addr) : addrHi a = BitVec.ofNat 8 (a.toNat / 256) := by
  apply BitVec.eq_of_toNat_eq
  have := a.isLt
  rw [addrHi_toNat, BitVec.toNat_ofNat]
  omega

/-- The low byte of an address as a number (R53). -/
theorem addrLo_eq (a : Addr) : addrLo a = BitVec.ofNat 8 (a.toNat % 256) := by
  apply BitVec.eq_of_toNat_eq
  rw [addrLo_toNat, BitVec.toNat_ofNat]
  omega

/-- The payload of a write-page frame starts at byte 3 (R76). -/
theorem encWP_getElem?_payload (a : Addr) (d : List Byte) (k : Nat) : (encWP a d)[3 + k]? = d[k]? := by
  rw [encWP, Nat.add_comm]
  rfl

/-- Settles O6: each frame is its encoder's list, and the two bytes of an address are its quotient and remainder
by 256. -/
theorem framesAreBitExact : Obligations.FramesAreBitExact := by
  refine ⟨rfl, fun a d hd => ⟨?length, rfl, ?hi, ?lo, fun k _ => encWP_getElem?_payload a d k⟩, fun a => ?sra⟩
  case length => simp [encWP, hd]
  case hi => exact congrArg some (addrHi_eq a)
  case lo => exact congrArg some (addrLo_eq a)
  case sra => rw [encSRA, addrHi_eq, addrLo_eq]

/-- A write-enable frame at the head of a stream is read off it (R78). -/
@[simp] theorem decodeStream_encWE (rest : List Byte) : decodeStream (encWE ++ rest) = .ok (.frameWe, rest) := rfl

/-- A write-page frame of one page at the head of a stream is read off it (R78). -/
theorem decodeStream_encWP {a : Addr} {d : List Byte} (hd : d.length = pageSize) (rest : List Byte) :
    decodeStream (encWP a d ++ rest) = .ok (.frameWp a d, rest) := by
  simp [decodeStream, encWP, ← hd]

/-- A set-read-address frame at the head of a stream is read off it (R78). -/
@[simp] theorem decodeStream_encSRA (a : Addr) (rest : List Byte) :
    decodeStream (encSRA a ++ rest) = .ok (.frameSra a, rest) := by
  simp [decodeStream, encSRA]

/-- The frame of a well-formed instruction at the head of a stream is read off it (R78). -/
theorem decodeStream_of_encode {i : Instr} {f : List Byte} (hi : i.WellFormed) (h : encode i = .frame f)
    (rest : List Byte) : decodeStream (f ++ rest) = .ok (i, rest) := by
  cases i with
  | init | write | read => cases h
  | frameWe =>
    obtain rfl := Coded.frame.inj h
    exact decodeStream_encWE rest
  | frameWp a d =>
    obtain rfl := Coded.frame.inj h
    exact decodeStream_encWP (wellFormed_frameWp.mp hi) rest
  | frameSra a =>
    obtain rfl := Coded.frame.inj h
    exact decodeStream_encSRA a rest

/-- The frame of a well-formed instruction decodes to it (R95). -/
theorem decodeFrame_of_encode {i : Instr} {f : List Byte} (hi : i.WellFormed) (h : encode i = .frame f) :
    decodeFrame f = .ok i := by
  have hs := decodeStream_of_encode hi h []
  rw [List.append_nil] at hs
  simp only [decodeFrame, hs]

/-- Byte 0 of the frame of a well-formed instruction gives the frame's length (R78). -/
theorem frameLength_of_encode {i : Instr} {f : List Byte} (hi : i.WellFormed) (h : encode i = .frame f) :
    ∃ op rest, f = op :: rest ∧ frameLength op = some f.length := by
  cases i with
  | init | write | read => cases h
  | frameWe =>
    obtain rfl := Coded.frame.inj h
    exact ⟨0x10, _, rfl, rfl⟩
  | frameWp a d =>
    obtain rfl := Coded.frame.inj h
    have hd : d.length = 256 := wellFormed_frameWp.mp hi
    exact ⟨0x12, _, rfl, by simp [frameLength, encWP, hd]⟩
  | frameSra a =>
    obtain rfl := Coded.frame.inj h
    exact ⟨0x20, _, rfl, rfl⟩

/-- A byte that is none of the three opcodes gives no length (R78, R79). -/
theorem frameLength_eq_none {op : Byte} (hwe : op ≠ 0x10) (hwp : op ≠ 0x12) (hsra : op ≠ 0x20) :
    frameLength op = none := by
  rw [frameLength, if_neg hwe, if_neg hwp, if_neg hsra]

end Sys2Proof

namespace Sys2Proof.Machine

open Sys2Proof

/-- The frame of a well-formed instruction is legal (R95). -/
theorem frameLegal_of_encode {i : Instr} {f : List Byte} (hi : i.WellFormed) (h : encode i = .frame f) :
    FrameLegal f :=
  ⟨i, hi, decodeFrame_of_encode hi h, h⟩

/-! ### The transmits in the trace after an operation -/

theorem State.tx_mem_transmit {s : State} {g f : List Byte} {dev : Byte} {st : Status}
    (h : .tx dev f st ∈ (s.transmit g).trace) : .tx dev f st ∈ s.trace ∨ f = g := by
  have h : .tx dev f st ∈ s.trace ∨ dev = s.cfg.devAddr ∧ f = g ∧ st = s.txAnswer := by simpa using h
  exact h.imp_right fun ⟨_, hf, _⟩ => hf

theorem State.tx_mem_complete {s : State} {op : Op} {r : Status} {f : List Byte} {dev : Byte} {st : Status} :
    .tx dev f st ∈ (s.complete op r).trace ↔ .tx dev f st ∈ s.trace := by
  simp

theorem State.tx_mem_setUp {s : State} {f : List Byte} {dev : Byte} {st : Status} :
    .tx dev f st ∈ s.setUp.trace ↔ .tx dev f st ∈ s.trace := by
  rw [State.setUp_trace]
  split <;> simp

/-- Whether the page is the last or not, its step sends the write-page frame alone (R125). -/
theorem State.tx_mem_sendWp {s : State} {a : Addr} {d f : List Byte} {dev : Byte} {st : Status}
    (h : .tx dev f st ∈ (s.sendWp a d).trace) : .tx dev f st ∈ s.trace ∨ f = encWP a d := by
  cases hl : s.lastPage
  · rw [State.sendWp_next s a d hl] at h
    exact State.tx_mem_transmit h
  · rw [State.sendWp_last s a d hl, State.tx_mem_complete] at h
    exact State.tx_mem_transmit h

/-- A transmit in the trace after the block's step was there before, or sends the frame of the sequencer state,
formed from `CA`, `PI` and `SRC` (R96). -/
theorem BlockCase.tx_mem_cases {u t : State} (h : BlockCase u t) {dev : Byte} {f : List Byte} {st : Status}
    (hmem : .tx dev f st ∈ t.trace) :
    .tx dev f st ∈ u.trace ∨ f = encWE ∨ f = encWP u.target u.payload ∨ f = encSRA u.ca := by
  cases h with
  | init =>
    rw [State.tx_mem_complete, State.tx_mem_setUp] at hmem
    exact .inl hmem
  | nullLate | writeEnable => exact (State.tx_mem_transmit hmem).imp_right .inl
  | writePage => exact (State.tx_mem_sendWp hmem).imp_right fun hf => .inr (.inl hf)
  | selectFails =>
    exact (State.tx_mem_transmit (State.tx_mem_complete.mp hmem)).imp_right fun hf => .inr (.inr hf)
  | select => exact (State.tx_mem_transmit hmem).imp_right fun hf => .inr (.inr hf)
  | wait | refused | writeStart | readStart => exact .inl hmem
  | writeReject | readReject | receive | nullEarly | nullSource | srcOverrun | nullDest | dstOverrun =>
    exact .inl (by simpa using hmem)

/-- Every transmit a step adds to the trace sends a legal frame (R94, R95). -/
theorem step_emits_frameLegal {s t : State} (h : step s = .next t) {dev : Byte} {f : List Byte} {st : Status}
    (hmem : .tx dev f st ∈ t.trace) (hnew : .tx dev f st ∉ s.trace) : FrameLegal f := by
  rcases step_cases h with
    ⟨u, hu, hb⟩ | ⟨w, hd, rest, -, -, rfl⟩ | ⟨rest, -, rfl⟩ | ⟨rest, -, rfl⟩ | ⟨a, b, rest, -, rfl⟩
  · have htrace : u.trace = s.trace := by
      rcases blocksTurn_cases hu with rfl | ⟨rest, -, rfl⟩ <;> rfl
    rcases hb.tx_mem_cases hmem with hold | rfl | rfl | rfl
    · exact absurd (htrace ▸ hold) hnew
    · exact frameLegal_of_encode (i := .frameWe) rfl rfl
    · exact frameLegal_of_encode (i := .frameWp u.target u.payload)
        (wellFormed_frameWp.mpr u.payload_length) rfl
    · exact frameLegal_of_encode (i := .frameSra u.ca) rfl rfl
  · exact absurd hmem hnew
  · exact absurd hmem hnew
  · split at hmem <;> exact absurd hmem hnew
  · exact absurd hmem hnew

/-- Byte 0 of a legal frame gives its length (R78, R95). -/
theorem FrameLegal.frameLength {f : List Byte} (h : FrameLegal f) :
    ∃ op rest, f = op :: rest ∧ frameLength op = some f.length := by
  obtain ⟨i, hi, -, henc⟩ := h
  exact frameLength_of_encode hi henc

/-- Settles O7: a well-formed frame's byte 0 gives its length, and every frame a step emits is legal, so it is
the frame of a well-formed instruction. -/
theorem frameLengthFromItsOpcode : Obligations.FrameLengthFromItsOpcode := by
  refine ⟨⟨rfl, rfl, rfl, fun op => frameLength_eq_none⟩, fun i f hi henc => ?encoded,
    fun s t dev f st hstep hmem hnew => ?emitted, fun w => rfl⟩
  case encoded => exact ⟨frameLength_of_encode hi henc, decodeStream_of_encode hi henc⟩
  case emitted => exact (step_emits_frameLegal hstep hmem hnew).frameLength

end Sys2Proof.Machine

/-! The three forms of R95: what a legal frame is, byte for byte, and the obligation about the frames a step
emits. -/

namespace Sys2Proof.Machine

open Sys2Proof

/-- A legal frame is one of the three encoders' lists, a page of payload in the second (R91 to R93). -/
theorem FrameLegal.eq_enc {f : List Byte} (h : FrameLegal f) :
    f = encWE ∨ (∃ (a : Addr) (d : List Byte), d.length = 256 ∧ f = encWP a d) ∨ ∃ a : Addr, f = encSRA a := by
  obtain ⟨i, hi, -, henc⟩ := h
  cases i with
  | init | write | read => cases henc
  | frameWe => exact .inl (Coded.frame.inj henc).symm
  | frameWp a d => exact .inr (.inl ⟨a, d, wellFormed_frameWp.mp hi, (Coded.frame.inj henc).symm⟩)
  | frameSra a => exact .inr (.inr ⟨a, (Coded.frame.inj henc).symm⟩)

/-- Bytes 1 and 2 of a write-page frame are its address, the rest its payload (R95). -/
theorem encWP_recovered (a : Addr) (d : List Byte) :
    encWP a d = encWP (addrOfBytes ((encWP a d).getD 1 0) ((encWP a d).getD 2 0)) ((encWP a d).drop 3) :=
  congrArg (encWP · d) (addrOfBytes_of_addr a).symm

/-- Bytes 1 and 2 of a set-read-address frame are its address (R95). -/
theorem encSRA_recovered (a : Addr) :
    encSRA a = encSRA (addrOfBytes ((encSRA a).getD 1 0) ((encSRA a).getD 2 0)) :=
  congrArg encSRA (addrOfBytes_of_addr a).symm

/-- Settles O8: a step emits legal frames only, a legal frame has one of the three forms, and the lengths 1, 259
and 3 keep the forms apart. -/
theorem emittedFramesHaveOneOfThreeForms : Obligations.EmittedFramesHaveOneOfThreeForms := by
  intro s t dev f st hstep hmem hnew addr isWe isWp isSra
  have hform : isWe ∨ isWp ∨ isSra := by
    rcases (step_emits_frameLegal hstep hmem hnew).eq_enc with rfl | ⟨a, d, hd, rfl⟩ | ⟨a, rfl⟩
    · exact .inl rfl
    · exact .inr (.inl ⟨congrArg (· + 3) hd, rfl, encWP_recovered a d⟩)
    · exact .inr (.inr ⟨rfl, rfl, encSRA_recovered a⟩)
  have hlenWe : isWe → f.length = 1 := congrArg List.length
  have hweWp : isWe → ¬isWp := fun hwe hwp => absurd ((hlenWe hwe).symm.trans hwp.1) (by decide)
  have hweSra : isWe → ¬isSra := fun hwe hsra => absurd ((hlenWe hwe).symm.trans hsra.1) (by decide)
  have hwpSra : isWp → ¬isSra := fun hwp hsra => absurd (hwp.1.symm.trans hsra.1) (by decide)
  rcases hform with hwe | hwp | hsra
  · exact .inl ⟨hwe, hweWp hwe, hweSra hwe⟩
  · exact .inr (.inl ⟨fun hwe => hweWp hwe hwp, hwp, hwpSra hwp⟩)
  · exact .inr (.inr ⟨fun hwe => hweSra hwe hsra, fun hwp => hwpSra hwp hsra, hsra⟩)

end Sys2Proof.Machine

/-! The conditions of 41_commands.md as facts about numbers: addresses, payloads, preconditions (R116 to R124), and
the obligations about them. -/

namespace Sys2Proof.Machine

open Sys2Proof

/-! ## Operands -/

/-- Under `ADVANCE` the address of a page wraps at 2^16 (R123). -/
theorem pageAddr_advance_toNat (ca : Addr) (i : BitVec 8) :
    (pageAddr .advance ca i).toNat = (ca.toNat + i.toNat * 256) % 2 ^ 16 := by
  rw [pageAddr, BitVec.toNat_add, BitVec.toNat_ofNat, Nat.add_mod_mod]

/-- Settles O9: the sum of R123 is one of bit vectors of 16 bits, and page 0 adds nothing. -/
theorem pageAddressByPolicy : Obligations.PageAddressByPolicy :=
  fun ca i => ⟨rfl, pageAddr_advance_toNat ca i, rfl, BitVec.add_zero ca⟩

/-- Settles O10: the payload is a run of bytes read from the source's base and the offset of the page. -/
theorem payloadIsThePageOfTheSource : Obligations.PayloadIsThePageOfTheSource := by
  intro s h hsrc
  refine ⟨State.payload_length s, fun k hk => ?_⟩
  rw [State.payload, memRead, Memory.readBytes_getElem? _ _ _ _ hk, hsrc]
  simp [handleBase, srcOffset, Nat.add_assoc]

/-- `CL[7:0]` = 0, read as a number (R57). -/
theorem lengthLow_eq_zero_iff {len : Len} : lengthLow len = 0 ↔ len.toNat % 256 = 0 := by
  simp [lengthLow, ← BitVec.toNat_inj]

/-- `NP` as a number (R77, R121). -/
theorem pageCount_eq (len : Len) : pageCount len = BitVec.ofNat 8 (len.toNat / 256) :=
  BitVec.eq_of_toNat_eq (by simp [pageCount, Nat.shiftRight_eq_div_pow])

/-- The page count of a length is exact in 8 bits: no length has more than 255 whole pages (R13). -/
theorem pageCount_toNat (len : Len) : (pageCount len).toNat = len.toNat / 256 := by
  have := len.isLt
  rw [pageCount_eq, BitVec.toNat_ofNat]
  omega

/-! ## Preconditions -/

/-- The Write length check (R118). -/
theorem writeLenOk_iff {len : Len} : writeLenOk len = true ↔ len.toNat ≠ 0 ∧ len.toNat % 256 = 0 := by
  rw [writeLenOk, Bool.and_eq_true, bne_iff_ne, beq_iff_eq, lengthLow_eq_zero_iff, Ne, ← BitVec.toNat_inj]
  rfl

/-- `WritePre()`, term by term (R116). -/
theorem State.writePre_iff {s : State} :
    s.writePre = true ↔
      s.init = true ∧ bufOk s.cfg.bufCheck s.bp = true ∧ s.cl.toNat ≠ 0 ∧ s.cl.toNat % 256 = 0 := by
  simp only [State.writePre, Bool.and_eq_true, writeLenOk_iff, and_assoc]

/-- `ReadPre()`, term by term (R136). -/
theorem State.readPre_iff {s : State} :
    s.readPre = true ↔ s.init = true ∧ bufOk s.cfg.bufCheck s.bp = true ∧ s.cl.toNat ≠ 0 := by
  simp [State.readPre, ← BitVec.toNat_inj, and_assoc]

/-- Settles O11: each precondition is its terms, and the two buffer checks and seven lengths are computed. -/
theorem preconditionsTermByTerm : Obligations.PreconditionsTermByTerm :=
  ⟨fun _ => State.writePre_iff, fun _ => State.readPre_iff, by decide, fun _ => writeLenOk_iff, by decide⟩

/-- Under the intended check nothing proceeds with a null buffer (R119). -/
theorem bufOk_of_intended_null {s : State} (hc : s.cfg.bufCheck = .intended) (hb : s.bp = false) :
    bufOk s.cfg.bufCheck s.bp = false := by
  rw [hc, hb]
  rfl

/-- The status of a pair (R126). -/
theorem pairStatus_eq_ok_iff {we wp : Status} : pairStatus we wp = .ok ↔ we = .ok ∧ wp = .ok := by
  cases we <;> cases wp <;> simp [pairStatus]

/-! ## Conditions of the frame steps -/

theorem State.nullSourceOpen_iff {s : State} :
    s.nullSourceOpen = true ↔ s.cfg.bufCheck = .literal ∧ s.bp = false ∧ s.pi = 0 := by
  simp [State.nullSourceOpen, and_assoc]

theorem State.srcShort_iff {s : State} : s.srcShort = true ↔ handleSize s.src < s.pi.toNat * 256 + 256 :=
  decide_eq_true_iff

theorem State.dstShort_iff {s : State} : s.dstShort = true ↔ handleSize s.dst < s.cl.toNat :=
  decide_eq_true_iff

theorem State.lastPage_iff {s : State} : s.lastPage = true ↔ s.pi.toNat + 1 = s.np.toNat :=
  beq_iff_eq

/-- With a source that holds the page, the page can be read (R130). -/
theorem State.srcShort_eq_false {s : State} {h : Handle} (hsrc : s.src = some h)
    (hsize : s.pi.toNat * 256 + 256 ≤ h.size) : s.srcShort = false := by
  rw [Bool.eq_false_iff, Ne, State.srcShort_iff, hsrc]
  exact Nat.not_lt.mpr hsize

/-- With a destination that holds the bytes asked for, they can be received (R143). -/
theorem State.dstShort_eq_false {s : State} {h : Handle} (hdst : s.dst = some h) (hsize : s.cl.toNat ≤ h.size) :
    s.dstShort = false := by
  rw [Bool.eq_false_iff, Ne, State.dstShort_iff, hdst]
  exact Nat.not_lt.mpr hsize

end Sys2Proof.Machine

/-! What each instruction does in its own sequencer state, and the step that runs it when the host has nothing to
do: one equation per case. -/

namespace Sys2Proof.Machine

open Sys2Proof

variable {s : State}

/-! ## Transmits and completion (R94, R145) -/

/-- The answer to the next transmit depends on the listed answers and the draw counter alone (R60). -/
theorem State.txAnswer_congr {t : State} (htx : t.txAns = s.txAns) (hdraws : t.draws = s.draws) :
    t.txAnswer = s.txAnswer := by
  simp only [State.txAnswer, htx, hdraws]

/-- Completion of a command in its acceptance step, which leaves the block in `IDLE` (R145). -/
theorem State.complete_of_idle (hs : s.seq = .idle) (op : Op) (st : Status) :
    s.complete op st = { s with status := some st, trace := s.trace ++ [.done op st] } := by
  rw [State.complete, ← hs]
  rfl

/-- The write-enable transmit, as one change of the state (R122). -/
theorem State.sendWe_eq :
    s.sendWe =
      { s with
        trace := s.trace ++ [.tx s.cfg.devAddr [0x10] s.txAnswer], wes := s.txAnswer, seq := .wrWp,
        txAns := s.txAns.tail, draws := s.draws + 1 } := rfl

/-- A transmit that completes its command, as one change of the state. -/
theorem State.transmit_complete (f : List Byte) (op : Op) (st : Status) :
    (s.transmit f).complete op st =
      { s with
        trace := s.trace ++ [.tx s.cfg.devAddr f s.txAnswer, .done op st], status := some st, seq := .idle,
        txAns := s.txAns.tail, draws := s.draws + 1 } := by
  simp [State.complete, State.transmit, State.tookTx, State.emit]

/-- The receive with its completion, as one change of the state (R139 to R141). -/
theorem State.takeRx_eq :
    s.takeRx =
      { s with
        mem := memWrite s.mem s.dst 0 (s.rxBytes s.cl.toNat), status := some s.rxStatus, seq := .idle,
        rxAns := s.rxAns.tail, draws := s.draws + 1,
        trace := s.trace ++
          [.rx s.cfg.devAddr s.cl.toNat s.rxStatus (s.rxBytes s.cl.toNat), .done .read s.rxStatus] } := by
  simp [State.takeRx, State.complete, State.receive, State.tookRx, State.emit]

/-! ## Host commands in `IDLE` -/

/-- INIT in `IDLE` (R112). -/
theorem exec_init_idle (hs : s.seq = .idle) : exec .init s = .next (s.accept.setUp.complete .init .ok) := by
  simp [exec, execInit, hs]

/-- A WRITE whose precondition holds starts (R120). -/
theorem exec_write_start {bp : Bool} {a : Addr} {l : Len} (hs : s.seq = .idle)
    (hp : (s.latchWrite bp a l).writePre = true) :
    exec (.write bp a l) s = .next { s.latchWrite bp a l with np := pageCount l, pi := 0, seq := .wrWe } := by
  simp [exec, execWrite, hs, hp]

/-- A WRITE whose precondition fails completes (R117). -/
theorem exec_write_reject {bp : Bool} {a : Addr} {l : Len} (hs : s.seq = .idle)
    (hp : (s.latchWrite bp a l).writePre = false) :
    exec (.write bp a l) s = .next ((s.latchWrite bp a l).complete .write .notOk) := by
  simp [exec, execWrite, hs, hp]

/-- A READ whose precondition holds goes on (R136). -/
theorem exec_read_start {bp : Bool} {a : Addr} {l : Len} (hs : s.seq = .idle)
    (hp : (s.latchRead bp a l).readPre = true) :
    exec (.read bp a l) s = .next { s.latchRead bp a l with seq := .rdSra } := by
  simp [exec, execRead, hs, hp]

/-- A READ whose precondition fails completes (R136). -/
theorem exec_read_reject {bp : Bool} {a : Addr} {l : Len} (hs : s.seq = .idle)
    (hp : (s.latchRead bp a l).readPre = false) :
    exec (.read bp a l) s = .next ((s.latchRead bp a l).complete .read .notOk) := by
  simp [exec, execRead, hs, hp]

/-! ## Frames in their own states -/

/-- The write-enable step where R129 does not apply (R122). -/
theorem exec_frameWe (hs : s.seq = .wrWe) (ho : s.nullSourceOpen = false) : exec .frameWe s = .next s.sendWe := by
  simp [exec, execFrameWe, hs, ho]

/-- Where R129 applies, the early run faults in place of the transmit. -/
theorem exec_frameWe_early (hs : s.seq = .wrWe) (ho : s.nullSourceOpen = true) (he : s.nullEarly = true) :
    exec .frameWe s = .next (s.tookNull.raise (.nullSource 0)) := by
  simp [exec, execFrameWe, hs, ho, he]

/-- Where R129 applies, the late run takes the step. -/
theorem exec_frameWe_late (hs : s.seq = .wrWe) (ho : s.nullSourceOpen = true) (he : s.nullEarly = false) :
    exec .frameWe s = .next s.tookNull.sendWe := by
  simp [exec, execFrameWe, hs, ho, he]

/-- The write-page step on a null source (R129). -/
theorem exec_frameWp_null {a : Addr} {d : List Byte} (hs : s.seq = .wrWp) (hd : d.length = pageSize)
    (hb : s.bp = false) : exec (.frameWp a d) s = .next (s.raise (.nullSource 0)) := by
  simp [exec, execFrameWp, hs, hd, hb]

/-- The write-page step on a source too short for the page (R130). -/
theorem exec_frameWp_short {a : Addr} {d : List Byte} (hs : s.seq = .wrWp) (hd : d.length = pageSize)
    (hb : s.bp = true) (ho : s.srcShort = true) :
    exec (.frameWp a d) s = .next (s.raise (.srcOverrun s.pi)) := by
  simp [exec, execFrameWp, hs, hd, hb, ho]

/-- The write-page step that sends its page (R125). -/
theorem exec_frameWp {a : Addr} {d : List Byte} (hs : s.seq = .wrWp) (hd : d.length = pageSize) (hb : s.bp = true)
    (ho : s.srcShort = false) : exec (.frameWp a d) s = .next (s.sendWp a d) := by
  simp [exec, execFrameWp, hs, hd, hb, ho]

/-- The set-read-address step answered `Ok` (R137). -/
theorem exec_frameSra_ok {a : Addr} (hs : s.seq = .rdSra) (ha : s.txAnswer = .ok) :
    exec (.frameSra a) s =
      .next { s with
        trace := s.trace ++ [.tx s.cfg.devAddr (encSRA a) .ok], seq := .rdRx, txAns := s.txAns.tail,
        draws := s.draws + 1 } := by
  simp [exec, execFrameSra, hs, ha, State.transmit, State.tookTx, State.emit]

/-- The set-read-address step answered `NotOk` (R138). -/
theorem exec_frameSra_notOk {a : Addr} (hs : s.seq = .rdSra) (ha : s.txAnswer = .notOk) :
    exec (.frameSra a) s =
      .next { s with
        trace := s.trace ++ [.tx s.cfg.devAddr (encSRA a) .notOk, .done .read .notOk], status := some .notOk,
        seq := .idle, txAns := s.txAns.tail, draws := s.draws + 1 } := by
  simp [exec, execFrameSra, hs, ha, State.transmit_complete]

/-! ## The receive -/

/-- The receive step on a null destination (R142). -/
theorem receiveStep_null (hb : s.bp = false) : receiveStep s = s.raise .nullDest := by
  simp [receiveStep, hb]

/-- The receive step on a destination too short for the Read (R143). -/
theorem receiveStep_short (hb : s.bp = true) (ho : s.dstShort = true) : receiveStep s = s.raise (.dstOverrun s.cl) := by
  simp [receiveStep, hb, ho]

/-- The receive step that receives (R139). -/
theorem receiveStep_receives (hb : s.bp = true) (ho : s.dstShort = false) : receiveStep s = s.takeRx := by
  simp [receiveStep, hb, ho]

/-! ## The step, with nothing for the host to do (R25) -/

/-- In `IDLE` a presented word that decodes is run (R110). -/
theorem step_idle {w : CmdWord} {i : Instr} (hh : s.host = []) (hs : s.seq = .idle) (hc : s.cmd = some w)
    (hd : decodeHost w = .ok i) : step s = exec i s := by
  simp [step_of_host_nil hh, blockStep, hs, idleStep, hc, hd]

theorem step_wrWe (hh : s.host = []) (hs : s.seq = .wrWe) : step s = exec .frameWe s := by
  simp [step_of_host_nil hh, blockStep, hs]

theorem step_wrWp (hh : s.host = []) (hs : s.seq = .wrWp) : step s = exec (.frameWp s.target s.payload) s := by
  simp [step_of_host_nil hh, blockStep, hs]

theorem step_rdSra (hh : s.host = []) (hs : s.seq = .rdSra) : step s = exec (.frameSra s.ca) s := by
  simp [step_of_host_nil hh, blockStep, hs]

theorem step_rdRx (hh : s.host = []) (hs : s.seq = .rdRx) : step s = .next (receiveStep s) := by
  simp [step_of_host_nil hh, blockStep, hs]

end Sys2Proof.Machine

/-! The obligations about single instructions and single steps (R111 to R143), each a short use of the equations
above. -/

namespace Sys2Proof.Machine

open Sys2Proof

/-! ## Host commands -/

/-- Settles O13: INIT completes `Ok` after the set-up, which a second INIT passes over. -/
theorem initCompletesOk : Obligations.InitCompletesOk := by
  intro s hs
  rw [exec_init_idle hs]
  refine ⟨fun hi => ?first, fun hi => ?later⟩
  case first => simp [State.setUp, hi, hs, State.complete, State.emit, State.accept]
  case later => simp [State.setUp, hi, State.complete_of_idle, hs, State.accept]

/-- Settles O14: the stated condition is that `WritePre()` fails on the latched operands. -/
theorem failedWriteCompletesAtOnce : Obligations.FailedWriteCompletesAtOnce := by
  intro s bp addr len hs hfail
  have hp : (s.latchWrite bp addr len).writePre = false := Bool.eq_false_iff.mpr (mt State.writePre_iff.mp hfail)
  rw [exec_write_reject hs hp, State.complete_of_idle (s := s.latchWrite bp addr len) hs]
  rfl

/-- Settles O15: `WritePre()` holds on the latched operands, and a length with at least one page and no bytes beyond
its pages is its page count times 256. -/
theorem writeStartsAtPageZero : Obligations.WriteStartsAtPageZero := by
  intro s bp addr len hs hinit hbuf hne hlow
  have hp : (s.latchWrite bp addr len).writePre = true := State.writePre_iff.mpr ⟨hinit, hbuf, hne, hlow⟩
  rw [exec_write_start hs hp, ← pageCount_eq, pageCount_toNat]
  exact ⟨rfl, by omega, by omega⟩

/-- Settles O16: the stated condition is `ReadPre()` on the latched operands. -/
theorem readAcceptance : Obligations.ReadAcceptance := by
  intro s bp addr len hs
  refine ⟨fun hpre => ?goesOn, fun hfail => ?completes⟩
  case goesOn =>
    have hp : (s.latchRead bp addr len).readPre = true := State.readPre_iff.mpr hpre
    rw [exec_read_start hs hp]
    rfl
  case completes =>
    have hp : (s.latchRead bp addr len).readPre = false := Bool.eq_false_iff.mpr (mt State.readPre_iff.mp hfail)
    rw [exec_read_reject hs hp, State.complete_of_idle (s := s.latchRead bp addr len) hs]
    rfl

/-- An accepted WRITE latches its operands whether it starts or is completed at once (R111, R114). -/
theorem exec_write_latches {s t : State} {bp : Bool} {a : Addr} {l : Len} (hs : s.seq = .idle)
    (h : exec (.write bp a l) s = .next t) :
    t.ca = a ∧ t.cl = l ∧ t.bp = bp ∧ t.src = s.presentedHandle bp ∧ t.dst = s.dst := by
  rcases execWrite_cases h with ⟨-, -, rfl⟩ | ⟨-, -, rfl⟩ | ⟨hn, -⟩
  · exact ⟨rfl, rfl, rfl, rfl, rfl⟩
  · exact ⟨rfl, rfl, rfl, rfl, rfl⟩
  · exact absurd hs hn

/-- An accepted READ latches its operands whether it goes on or is completed at once (R111, R114). -/
theorem exec_read_latches {s t : State} {bp : Bool} {a : Addr} {l : Len} (hs : s.seq = .idle)
    (h : exec (.read bp a l) s = .next t) :
    t.ca = a ∧ t.cl = l ∧ t.bp = bp ∧ t.dst = s.presentedHandle bp ∧ t.src = s.src := by
  rcases execRead_cases h with ⟨-, -, rfl⟩ | ⟨-, -, rfl⟩ | ⟨hn, -⟩
  · exact ⟨rfl, rfl, rfl, rfl, rfl⟩
  · exact ⟨rfl, rfl, rfl, rfl, rfl⟩
  · exact absurd hs hn

/-- The handle presented with a word, by the word's bit 2 (R111). -/
theorem State.presentedHandle_bpField (s : State) (w : CmdWord) :
    s.presentedHandle (bpField w) = if w.toNat / 4 % 2 = 1 then some s.hnd else none := by
  simp [State.presentedHandle, bpField_eq]

/-- `LEN` is the word's highest field, so it is a quotient (R71). -/
theorem lenField_toNat_eq_div (w : CmdWord) : (lenField w).toNat = w.toNat / 2 ^ 24 := by
  have := w.isLt
  rw [lenField_toNat]
  omega

/-- Settles O17, by the operation: the word's number fixes what it decodes to, and the step runs that. -/
theorem acceptanceLatchesTheOperands : Obligations.AcceptanceLatchesTheOperands := by
  intro s t w hh hs hc hstep
  have hwrite (hr : w.toNat / 8 % 32 = 0) (ho : w.toNat % 4 = 2) :=
    exec_write_latches hs ((step_idle hh hs hc
      (decodeHost_write (opField_eq_iff.mpr ho) (rsvField_eq_zero_iff.mpr hr))).symm.trans hstep)
  have hread (hr : w.toNat / 8 % 32 = 0) (ho : w.toNat % 4 = 3) :=
    exec_read_latches hs ((step_idle hh hs hc
      (decodeHost_read (opField_eq_iff.mpr ho) (rsvField_eq_zero_iff.mpr hr))).symm.trans hstep)
  rw [← addrField_toNat, ← lenField_toNat_eq_div, ← bpField_eq, ← s.presentedHandle_bpField]
  refine ⟨fun hr ho => ?operands, fun hr ho => ?source, fun hr ho => ?destination, fun ho => ?init⟩
  case operands =>
    obtain ho | ho : w.toNat % 4 = 2 ∨ w.toNat % 4 = 3 := by omega
    · obtain ⟨hca, hcl, hbp, -⟩ := hwrite hr ho
      exact ⟨congrArg _ hca, congrArg _ hcl, hbp⟩
    · obtain ⟨hca, hcl, hbp, -⟩ := hread hr ho
      exact ⟨congrArg _ hca, congrArg _ hcl, hbp⟩
  case source => exact (hwrite hr ho).2.2.2
  case destination => exact (hread hr ho).2.2.2
  case init =>
    rw [step_idle hh hs hc (decodeHost_op_one (opField_eq_iff.mpr ho)), exec_init_idle hs] at hstep
    obtain rfl := Host.Outcome.next.inj hstep
    simp

/-! ## Frames -/

/-- Settles O19: outside R129's conditions the step is the write-enable transmit. -/
theorem writeEnableStep : Obligations.WriteEnableStep := by
  intro s hs hclosed
  rw [exec_frameWe hs (Bool.eq_false_iff.mpr (mt State.nullSourceOpen_iff.mp hclosed)), State.sendWe_eq]

/-- Settles O20: the listed choice picks the run, and each run's step is the fault or the transmit. -/
theorem nullSourceHasTwoRuns : Obligations.NullSourceHasTwoRuns := by
  refine ⟨fun s rest hs hc hb hp => ⟨?early, ?late⟩, fun s hh hs _ hb _ => ?fault,
    fun s hc hb hi hl => ?literal, fun s hc hb => ?intended⟩
  case early => exact exec_frameWe_early hs (State.nullSourceOpen_iff.mpr ⟨hc, hb, hp⟩) rfl
  case late =>
    let u : State := { s with nullAns := false :: rest }
    have hans : u.tookNull.txAnswer = { s with draws := s.draws + 1 }.txAnswer := State.txAnswer_congr rfl rfl
    have hrun : exec .frameWe u = .next u.tookNull.sendWe :=
      exec_frameWe_late hs (State.nullSourceOpen_iff.mpr ⟨hc, hb, hp⟩) rfl
    rw [hrun, State.sendWe_eq, hans]
    rfl
  case fault =>
    rw [step_wrWp hh hs, exec_frameWp_null hs s.payload_length hb]
    rfl
  case literal => simp [State.writePre, hi, hc, hb, hl, bufOk]
  case intended => simp [State.writePre, bufOk_of_intended_null hc hb]

/-- Settles O21: on the last page and before it, the step is the write-page transmit with what follows it. -/
theorem writePageStep : Obligations.WritePageStep := by
  intro s h addr d hs hd hb hsrc hsize
  rw [exec_frameWp hs hd hb (State.srcShort_eq_false hsrc hsize)]
  refine ⟨fun hlast => ⟨pairStatus s.wes s.txAnswer, pairStatus_eq_ok_iff, ?last⟩, fun hnext => ?next⟩
  case last => rw [State.sendWp_last s addr d (State.lastPage_iff.mpr hlast), State.transmit_complete]
  case next =>
    rw [State.sendWp_next s addr d (Bool.eq_false_iff.mpr (mt State.lastPage_iff.mp hnext))]
    rfl

/-- Settles O22: the fault comes instead of the transmit. -/
theorem sourceOverrunFaults : Obligations.SourceOverrunFaults := by
  intro s hh hs hb hshort
  rw [step_wrWp hh hs, exec_frameWp_short hs s.payload_length hb (State.srcShort_iff.mpr hshort)]
  rfl

/-- Settles O24: the two answers to the transmit, and the step on `CA`. -/
theorem setReadAddressStep : Obligations.SetReadAddressStep :=
  ⟨fun _ _ hs => ⟨exec_frameSra_ok hs, exec_frameSra_notOk hs⟩, fun _ => step_rdSra⟩

/-! ## The receive -/

/-- Settles O28: the fault comes instead of the receive. -/
theorem destinationOverrunFaults : Obligations.DestinationOverrunFaults := by
  intro s hh hs hb hshort
  rw [step_rdRx hh hs, receiveStep_short hb (State.dstShort_iff.mpr hshort)]
  rfl

/-- Settles O27: the memory is the received bytes written from the destination's base on, which reads back inside
them and is unchanged outside. -/
theorem receiveWritesTheDestination : Obligations.ReceiveWritesTheDestination := by
  intro s h hh hs hb hdst hsize hwf
  have hlen := s.rxBytes_length s.cl.toNat
  refine ⟨s.mem.writeBytes h.base (s.rxBytes s.cl.toNat), ?step, hlen, fun k hk => ?inside, fun a ha => ?outside⟩
  case step =>
    rw [step_rdRx hh hs, receiveStep_receives hb (State.dstShort_eq_false hdst hsize), State.takeRx_eq, hdst]
    rfl
  case inside =>
    have hbyte := List.getElem?_eq_getElem (hlen.symm ▸ hk)
    rw [hbyte, Memory.get_writeBytes_inside hwf hbyte]
  case outside => exact Memory.get_writeBytes_outside _ (hlen.symm ▸ ha)

/-- A READ with a null destination proceeds under the literal check, as far as its set-read-address step (R142). -/
theorem step_read_null_literal {s : State} {w : CmdWord} {a : Addr} {l : Len} (hh : s.host = []) (hs : s.seq = .idle)
    (hi : s.init = true) (hc : s.cfg.bufCheck = .literal) (hw : s.cmd = some w)
    (hd : decodeHost w = .ok (.read false a l)) (hl : l.toNat ≠ 0) :
    step s = .next { s with cmd := none, ca := a, cl := l, bp := false, dst := none, seq := .rdSra } := by
  have hbuf : bufOk s.cfg.bufCheck false = true := by
    rw [hc]
    rfl
  rw [step_idle hh hs hw hd, exec_read_start hs (State.readPre_iff.mpr ⟨hi, hbuf, hl⟩)]
  rfl

/-- The receive step on a null destination faults (R142). -/
theorem step_rdRx_null {s : State} (hh : s.host = []) (hs : s.seq = .rdRx) (hb : s.bp = false) :
    step s = .next (s.raise .nullDest) := by
  rw [step_rdRx hh hs, receiveStep_null hb]

/-- From the set-read-address step on, a Read with a null destination faults if the transmit is answered `Ok`
(R142). -/
theorem steps_rdSra_null {s : State} (hh : s.host = []) (hs : s.seq = .rdSra) (ha : s.txAnswer = .ok)
    (hb : s.bp = false) :
    steps 2 s =
      .next { s with
        trace := s.trace ++ [.tx s.cfg.devAddr (encSRA s.ca) .ok, .faulted .nullDest], fault := some .nullDest,
        seq := .faulted, txAns := s.txAns.tail, draws := s.draws + 1 } := by
  refine Eq.trans (steps_succ 1 ((step_rdSra hh hs).trans (exec_frameSra_ok hs ha))) ?_
  refine Eq.trans (steps_succ 0 (step_rdRx_null hh rfl hb)) ?_
  simp [steps, State.raise, State.emit]

/-- If that transmit is answered `NotOk`, its step completes the Read (R138). -/
theorem steps_rdSra_notOk {s : State} (hh : s.host = []) (hs : s.seq = .rdSra) (ha : s.txAnswer = .notOk) :
    steps 1 s =
      .next { s with
        trace := s.trace ++ [.tx s.cfg.devAddr (encSRA s.ca) .notOk, .done .read .notOk], status := some .notOk,
        seq := .idle, txAns := s.txAns.tail, draws := s.draws + 1 } :=
  steps_succ 0 ((step_rdSra hh hs).trans (exec_frameSra_notOk hs ha))

/-- Settles O29: the Read is accepted, and its set-read-address step and the receive step follow. -/
theorem nullDestinationUnderLiteral : Obligations.NullDestinationUnderLiteral := by
  refine ⟨fun s w a l hh hs hi hc hw hd hl => ?run, fun s hc hb => ?intended⟩
  case run =>
    have haccept := step_read_null_literal hh hs hi hc hw hd hl
    refine ⟨fun ha => (steps_succ 2 haccept).trans ?ok, fun ha => (steps_succ 1 haccept).trans ?notOk⟩
    case ok => exact steps_rdSra_null hh rfl ha rfl
    case notOk => exact steps_rdSra_notOk hh rfl ha
  case intended => simp [State.readPre, bufOk_of_intended_null hc hb]

end Sys2Proof.Machine

/-! The Initialization Flag (R146): which instruction and which step change it, and the obligation about it. -/

namespace Sys2Proof.Machine

open Sys2Proof

/-- Every instruction but INIT keeps `INIT` (R146). -/
theorem exec_keeps_init {i : Instr} {s t : State} (h : exec i s = .next t) (hi : i ≠ .init) : t.init = s.init := by
  cases i with
  | init => exact absurd rfl hi
  | write => rcases execWrite_cases h with ⟨-, -, rfl⟩ | ⟨-, -, rfl⟩ | ⟨-, -, rfl⟩ <;> rfl
  | read => rcases execRead_cases h with ⟨-, -, rfl⟩ | ⟨-, -, rfl⟩ | ⟨-, -, rfl⟩ <;> rfl
  | frameWe =>
    rcases execFrameWe_cases h with ⟨-, -, -, rfl⟩ | ⟨-, -, -, rfl⟩ | ⟨-, -, rfl⟩ | ⟨-, -, rfl⟩ <;> rfl
  | frameWp a d =>
    rcases execFrameWp_cases h with ⟨-, -, -, rfl⟩ | ⟨-, -, -, -, rfl⟩ | ⟨-, -, -, -, rfl⟩ | ⟨-, -, rfl⟩
    · rfl
    · rfl
    · exact State.sendWp_init s a d
    · rfl
  | frameSra => rcases execFrameSra_cases h with ⟨-, -, rfl⟩ | ⟨-, -, rfl⟩ | ⟨-, -, rfl⟩ <;> rfl

/-- What an accepted INIT appends to the trace: its completion, after the set-up if it is the first (R113). -/
theorem State.acceptedInit_trace (s : State) :
    (s.accept.setUp.complete .init .ok).trace =
      s.trace ++ (if s.init then [Event.done .init .ok] else [Event.extInitSetup, Event.done .init .ok]) := by
  cases hi : s.init <;> simp [State.setUp_trace, hi]

/-- INIT sets `INIT` or keeps it, and appends no transport transaction (R146). -/
theorem exec_init_flag_and_trace {s t : State} (h : exec .init s = .next t) :
    (s.init = true → t.init = true) ∧ ∃ es, t.trace = s.trace ++ es ∧ ∀ e ∈ es, e.isTransaction = false := by
  rcases execInit_cases h with ⟨-, rfl⟩ | ⟨-, -, rfl⟩
  · refine ⟨fun _ => by simp, _, s.acceptedInit_trace, ?_⟩
    split <;> simp [Event.isTransaction]
  · exact ⟨id, [], by simp, by simp⟩

/-- A step of the block keeps `INIT`, or it accepts an INIT and sets it. -/
theorem BlockCase.init_cases {u t : State} (h : BlockCase u t) :
    t.init = u.init ∨
      (t.init = true ∧ ∃ w, u.seq = .idle ∧ u.cmd = some w ∧ decodeHost w = .ok .init) := by
  cases h with
  | init w hs hc hd => exact .inr ⟨by simp, w, hs, hc, hd⟩
  | writePage => exact .inl (State.sendWp_init u _ _)
  | wait | refused | writeStart | writeReject | readStart | readReject | nullEarly | nullLate | writeEnable
  | nullSource | srcOverrun | selectFails | select | nullDest | dstOverrun | receive => exact .inl rfl

/-- A step that changes `INIT` accepts an INIT or is a reset (R146). -/
theorem step_init_ne {s t : State} (h : step s = .next t) (hne : t.init ≠ s.init) :
    (t.init = true ∧ ∃ u w, blocksTurn s = some u ∧ u.seq = .idle ∧ u.cmd = some w ∧ decodeHost w = .ok .init) ∨
    (t.init = false ∧ ∃ rest, s.host = .reset :: rest) := by
  rcases step_cases h with
    ⟨u, hu, hb⟩ | ⟨w, hd, rest, -, -, rfl⟩ | ⟨rest, hh, rfl⟩ | ⟨rest, -, rfl⟩ | ⟨a, b, rest, -, rfl⟩
  · have hinit : u.init = s.init := by
      rcases blocksTurn_cases hu with rfl | ⟨rest, -, rfl⟩ <;> rfl
    rcases hb.init_cases with hkept | ⟨ht, w, hw⟩
    · exact absurd (hkept.trans hinit) hne
    · exact .inl ⟨ht, u, w, hu, hw⟩
  · exact absurd rfl hne
  · exact .inr ⟨rfl, rest, hh⟩
  · split at hne <;> exact absurd rfl hne
  · exact absurd rfl hne

/-- Settles O43, by what every instruction, INIT and every step can do to the flag. -/
theorem initFlagIsOneWay : Obligations.InitFlagIsOneWay :=
  ⟨fun _ _ _ => exec_keeps_init, fun _ _ => exec_init_flag_and_trace, fun _ _ => step_init_ne⟩

end Sys2Proof.Machine

/-! A Write that proceeds (R125 to R128): two steps send a page, page after page to the last, and the obligation
about the whole run. -/

namespace Sys2Proof.Machine

open Sys2Proof

/-- The answers to later transmits are the answers listed later, or later draws (R60). -/
theorem State.txAnswer_eq_txAnswerAt {s t : State} {k : Nat} (htx : t.txAns = s.txAns.drop k)
    (hdraws : t.draws = s.draws + k) : t.txAnswer = s.txAnswerAt k := by
  have hhead : s.txAns[k]? = t.txAns.head? := by rw [htx, List.head?_drop]
  rw [State.txAnswerAt, State.txAnswer, hhead, hdraws]
  cases t.txAns <;> rfl

/-- The transmits of one page more (R128). -/
theorem State.writeEvents_succ (s : State) (n : Nat) : s.writeEvents (n + 1) = s.writeEvents n ++ s.pageEvents n := by
  simp [State.writeEvents, List.range_succ]

/-- Two steps send the page the sequencer is at: its write-enable frame and its write-page frame (R122, R125). -/
theorem steps_two_sends_page {s : State} {h : Handle} (hh : s.host = []) (hs : s.seq = .wrWe) (hb : s.bp = true)
    (hsrc : s.src = some h) (hsize : s.pi.toNat * 256 + 256 ≤ h.size) :
    steps 2 s = .next (s.sendWe.sendWp s.target s.payload) := by
  have hopen : s.nullSourceOpen = false := by simp [State.nullSourceOpen, hb]
  have henable : step s = .next s.sendWe := (step_wrWe hh hs).trans (exec_frameWe hs hopen)
  have hpage : step s.sendWe = .next (s.sendWe.sendWp s.target s.payload) :=
    Eq.trans (step_wrWp hh rfl) (exec_frameWp rfl s.payload_length hb (State.srcShort_eq_false hsrc hsize))
  exact (steps_succ 1 henable).trans (steps_succ 0 hpage)

/-- The state of a Write `u` before the write-enable step of page i: the pages below i have been sent, and `WES`
holds what an earlier page, or an earlier command, has left in it. -/
def State.atPage (u : State) (i : Nat) (we : Status) : State :=
  { u with
    pi := BitVec.ofNat 8 i, seq := .wrWe, wes := we, trace := u.trace ++ u.writeEvents i,
    txAns := u.txAns.drop (2 * i), draws := u.draws + 2 * i }

/-- The state of a Write `u` after the write-page transmit of page i, but for what that step does next. -/
def State.sentPage (u : State) (i : Nat) : State :=
  { u with
    pi := BitVec.ofNat 8 i, seq := .wrWp, wes := u.txAnswerAt (2 * i), trace := u.trace ++ u.writeEvents (i + 1),
    txAns := u.txAns.drop (2 * (i + 1)), draws := u.draws + 2 * (i + 1) }

/-! ## One page -/

section
variable {u : State} {i : Nat} {we : Status}

/-- The write-enable transmit of page i has the first answer of pair i of R128. -/
theorem State.atPage_txAnswer : (u.atPage i we).txAnswer = u.txAnswerAt (2 * i) :=
  State.txAnswer_eq_txAnswerAt rfl rfl

/-- The write-page transmit of page i has the second. -/
theorem State.atPage_sendWe_txAnswer : (u.atPage i we).sendWe.txAnswer = u.txAnswerAt (2 * i + 1) :=
  State.txAnswer_eq_txAnswerAt List.tail_drop rfl

theorem State.atPage_pi_toNat (hi : i < 256) : (u.atPage i we).pi.toNat = i := by
  rw [State.atPage, BitVec.toNat_ofNat, Nat.mod_eq_of_lt hi]

/-- The payload of page i is the one of pair i of R128. -/
theorem State.atPage_payload (hi : i < 256) :
    (u.atPage i we).payload = memRead u.mem u.src (i * pageSize) pageSize := by
  have hoff : srcOffset (BitVec.ofNat 8 i) = i * pageSize := by
    rw [srcOffset, BitVec.toNat_ofNat, Nat.mod_eq_of_lt hi]
  rw [← hoff]
  rfl

/-- The two transmits of page i append the pair i of R128. -/
theorem State.atPage_transmit (hi : i < 256) :
    (u.atPage i we).sendWe.transmit (encWP (u.atPage i we).target (u.atPage i we).payload) = u.sentPage i := by
  rw [State.atPage_payload hi, State.transmit, State.atPage_sendWe_txAnswer, State.sendWe_eq, State.atPage_txAnswer,
    State.sentPage, State.writeEvents_succ]
  simp [State.atPage, State.tookTx, State.emit, State.target, State.pageEvents, encWE, Nat.mul_add, Nat.add_assoc]

variable {h : Handle} (hh : u.host = []) (hb : u.bp = true) (hsrc : u.src = some h)
  (hsize : u.np.toNat * 256 ≤ h.size)
include hh hb hsrc hsize

/-- Two steps send page i of a Write whose source holds its pages. -/
theorem steps_two_atPage (hi : i < u.np.toNat) :
    steps 2 (u.atPage i we) =
      .next ((u.atPage i we).sendWe.sendWp (u.atPage i we).target (u.atPage i we).payload) := by
  refine steps_two_sends_page (s := u.atPage i we) hh rfl hb hsrc ?_
  rw [State.atPage_pi_toNat (hi.trans u.np.isLt), ← Nat.succ_mul]
  exact (Nat.mul_le_mul_right 256 hi).trans hsize

/-- Before the last page the next page follows, whatever the answers were (R127). -/
theorem steps_two_atPage_next (hi : i + 1 < u.np.toNat) :
    steps 2 (u.atPage i we) = .next (u.atPage (i + 1) (u.txAnswerAt (2 * i))) := by
  have hlt : i < 256 := (Nat.lt_of_succ_lt hi).trans u.np.isLt
  have hmore : (u.atPage i we).sendWe.lastPage = false := by
    rw [Bool.eq_false_iff, Ne, State.lastPage_iff, State.sendWe_pi, State.atPage_pi_toNat hlt]
    exact hi.ne
  rw [steps_two_atPage hh hb hsrc hsize (by omega), State.sendWp_next _ _ _ hmore, State.atPage_transmit hlt]
  simp [State.sentPage, State.atPage, BitVec.ofNat_add]

/-- The last page completes the Write with the status of its pair (R126). -/
theorem steps_two_atPage_last (hi : i + 1 = u.np.toNat) :
    steps 2 (u.atPage i we) =
      .next ((u.sentPage i).complete .write (pairStatus (u.txAnswerAt (2 * i)) (u.txAnswerAt (2 * i + 1)))) := by
  have hlt : i < 256 := Nat.lt_of_succ_lt (hi.trans_lt u.np.isLt)
  have hlast : (u.atPage i we).sendWe.lastPage = true := by
    rw [State.lastPage_iff, State.sendWe_pi, State.atPage_pi_toNat hlt]
    exact hi
  rw [steps_two_atPage hh hb hsrc hsize (by omega), State.sendWp_last _ _ _ hlast, State.atPage_transmit hlt,
    State.sendWe_wes, State.atPage_txAnswer, State.atPage_sendWe_txAnswer]

/-! ## All pages -/

/-- Two steps a page lead from page 0 to any page of the Write (R128). -/
theorem steps_atPage (hi : i < u.np.toNat) : ∃ we', steps (2 * i) (u.atPage 0 we) = .next (u.atPage i we') := by
  induction i with
  | zero => exact ⟨we, rfl⟩
  | succ i ih =>
    obtain ⟨we', hpages⟩ := ih (by omega)
    exact ⟨_, (steps_add (2 * i) 2 hpages).trans (steps_two_atPage_next hh hb hsrc hsize hi)⟩

/-- A Write of n pages ends after two steps for each, with the status of the last pair (R128). -/
theorem steps_write {n : Nat} (hn : 1 ≤ n) (hnp : n = u.np.toNat) :
    steps (2 * n) (u.atPage 0 we) =
      .next { u with
        pi := BitVec.ofNat 8 (n - 1), wes := u.txAnswerAt (2 * n - 2), seq := .idle,
        status := some (pairStatus (u.txAnswerAt (2 * n - 2)) (u.txAnswerAt (2 * n - 1))),
        trace := u.trace ++ u.writeEvents n ++
          [.done .write (pairStatus (u.txAnswerAt (2 * n - 2)) (u.txAnswerAt (2 * n - 1)))],
        txAns := u.txAns.drop (2 * n), draws := u.draws + 2 * n } := by
  obtain ⟨i, rfl⟩ := Nat.exists_eq_add_of_le' hn
  obtain ⟨we', hpages⟩ := steps_atPage hh hb hsrc hsize (we := we) hnp.le
  exact (steps_add (2 * i) 2 hpages).trans (steps_two_atPage_last hh hb hsrc hsize hnp)

end

/-- Settles O48: one step accepts the Write at page 0, and two steps a page send it, the last of them with its
completion. -/
theorem writeSendsItsPagesInOrder : Obligations.WriteSendsItsPagesInOrder := by
  intro s w addr len hh hs hc hd hpre hsize n u pair
  obtain ⟨-, -, hne, hlow⟩ : _ ∧ _ ∧ len.toNat ≠ 0 ∧ len.toNat % 256 = 0 := State.writePre_iff.mp hpre
  let v : State := { u with np := pageCount len }
  have haccept : step s = .next (v.atPage 0 s.wes) := by
    rw [step_idle hh hs hc hd, exec_write_start hs hpre]
    simp [v, u, State.atPage, State.writeEvents, State.latchWrite, State.accept, State.presentedHandle]
  have hnp : n = v.np.toNat := (pageCount_toNat len).symm
  have hwrite := steps_write (u := v) (we := s.wes) hh rfl rfl (by omega) (by omega) hnp
  rw [steps_succ _ haccept, hwrite, ← pageCount_eq, ← hs]
  rfl

end Sys2Proof.Machine

/-! A reset between any two steps (R180), and the obligation about what it sets and what it leaves. -/

namespace Sys2Proof.Machine

open Sys2Proof

/-- With a reset as the host's next action, the step is that reset, whatever the sequencer is at. -/
theorem step_of_host_reset {s : State} {rest : List HostAction} (h : s.host = .reset :: rest) :
    step s = .next { s with host := rest }.doReset := by
  have hturn : blocksTurn s = none := by rw [blocksTurn, h]
  have hact : hostStep s = { s with host := rest }.doReset := by simp only [hostStep, h, hostAct]
  rw [step, wholeStep, hturn, hact]

/-- Settles O36, by the step that does the reset and the fields of the state after it. -/
theorem resetFromAnyState : Obligations.ResetFromAnyState := by
  intro s rest hh
  refine ⟨{ s with host := rest }.doReset, step_of_host_reset hh, ?_⟩
  simp

end Sys2Proof.Machine

/-! The encoder and the decoder agree in both directions (R71, R80, R95). -/

namespace Sys2Proof

/-- Settles O1, by the coded form the instruction has: a word or a frame. -/
theorem decodeOfEncodeIsTheInstruction : Obligations.DecodeOfEncodeIsTheInstruction := by
  intro i hi
  cases henc : encode i with
  | host w => exact decode_host (decodeHost_of_encode henc)
  | frame f => exact decode_frame (decodeFrame_of_encode hi henc)

/-- `OP` of a word that decodes to a WRITE or READ, and the word's own fields as its operands (R71, R80). -/
theorem opField_of_decodeHost {w : CmdWord} {i : Instr} (h : decodeHost w = .ok i) (hi : i ≠ .init) :
    (opField w = 2 ∧ i = .write (bpField w) (addrField w) (lenField w)) ∨
      (opField w = 3 ∧ i = .read (bpField w) (addrField w) (lenField w)) := by
  have hr := rsvField_of_decodeHost h hi
  obtain ho | ho | ho | ho : opField w = 0 ∨ opField w = 1 ∨ opField w = 2 ∨ opField w = 3 := by
    generalize opField w = op
    revert op
    decide
  · rw [decodeHost_op_zero ho] at h
    cases h
  · rw [decodeHost_op_one ho] at h
    exact absurd (Except.ok.inj h).symm hi
  · rw [decodeHost_write ho hr] at h
    exact .inl ⟨ho, (Except.ok.inj h).symm⟩
  · rw [decodeHost_read ho hr] at h
    exact .inr ⟨ho, (Except.ok.inj h).symm⟩

/-- A host command has no operand that could be ill formed. -/
theorem wellFormed_of_decodeHost {w : CmdWord} {i : Instr} (h : decodeHost w = .ok i) : i.WellFormed := by
  rcases Machine.decodeHost_ok_cases h with rfl | rfl | rfl <;> rfl

/-- A word that decodes to a WRITE or READ is the word of its fields (R71). -/
theorem encode_of_decodeHost {w : CmdWord} {i : Instr} (h : decodeHost w = .ok i) (hi : i ≠ .init) :
    encode i = .host w := by
  have hword := hostWord_fields (rsvField_of_decodeHost h hi)
  rcases opField_of_decodeHost h hi with ⟨ho, rfl⟩ | ⟨ho, rfl⟩
  · rw [ho] at hword
    exact congrArg Coded.host hword
  · rw [ho] at hword
    exact congrArg Coded.host hword

/-- What is read off a stream is a well-formed frame, and the stream is its bytes with the rest after them
(R78). -/
theorem encode_of_decodeStream {f rest : List Byte} {i : Instr} (h : decodeStream f = .ok (i, rest)) :
    i.WellFormed ∧ ∃ g, encode i = .frame g ∧ f = g ++ rest := by
  unfold decodeStream at h
  split at h
  · cases h
  next opcode tail =>
  split at h
  case isTrue hop =>
    cases h
    exact ⟨rfl, encWE, rfl, by rw [hop]; rfl⟩
  split at h
  case isTrue hop =>
    split at h
    · next hi lo d =>
      split at h
      · cases h
      next hlen =>
      cases h
      have hd : (d.take pageSize).length = 256 := List.length_take_of_le (Nat.not_lt.mp hlen)
      exact ⟨wellFormed_frameWp.mpr hd, _, rfl, by simp [encWP, hop]⟩
    · cases h
  split at h
  case isTrue hop =>
    split at h
    · cases h
      exact ⟨rfl, _, rfl, by simp [encSRA, hop]⟩
    · cases h
  cases h

/-- A byte sequence that is exactly one frame is the frame of what it decodes to (R95). -/
theorem encode_of_decodeFrame {f : List Byte} {i : Instr} (h : decodeFrame f = .ok i) :
    i.WellFormed ∧ encode i = .frame f := by
  unfold decodeFrame at h
  split at h
  · next j hs =>
    cases h
    obtain ⟨hi, g, henc, rfl⟩ := encode_of_decodeStream hs
    rw [List.append_nil]
    exact ⟨hi, henc⟩
  · cases h
  · cases h

/-- Settles O2, by the coded form: a word is the word of its fields, and a frame the frame of its instruction. -/
theorem encodeOfDecodeIsTheWord : Obligations.EncodeOfDecodeIsTheWord := by
  intro c i h
  unfold decode at h
  split at h
  · split at h
    · next w j hd =>
      cases h
      exact ⟨wellFormed_of_decodeHost hd, encode_of_decodeHost hd⟩
    · cases h
  · split at h
    · next f j hd =>
      cases h
      obtain ⟨hi, henc⟩ := encode_of_decodeFrame hd
      exact ⟨hi, fun _ => henc⟩
    · cases h

/-- Settles O53: the three frames are encodings, and the table word's bytes are the last of them. -/
theorem frameWordsDecode : Obligations.FrameWordsDecode := by
  have hsra : decodeFrame [0x20, 0x00, 0x50] = .ok (.frameSra 0x0050) :=
    decodeFrame_of_encode (i := .frameSra 0x0050) rfl rfl
  have htable : codedOfTable 24 0x500020 = .frame [0x20, 0x00, 0x50] := rfl
  refine ⟨decodeFrame_of_encode (i := .frameWe) rfl rfl, ?wp, hsra, ?table⟩
  case wp =>
    exact decodeFrame_of_encode (i := .frameWp 0x0100 (List.replicate 256 0xA5))
      (wellFormed_frameWp.mpr List.length_replicate) rfl
  case table =>
    rw [decodeTableWord, htable, decode_frame hsra]

end Sys2Proof

/-! What every step keeps and what it can answer: the block's turn (R25, R110), the stop in `FAULTED` (R152), the
configuration (R36), the host's memory (R61), the refusal mark (R154), and the obligations about them. -/

namespace Sys2Proof.Machine

open Sys2Proof

/-! ## Whose turn it is -/

/-- When the turn is the block's, its state differs from the whole state in the host's list at most. -/
theorem blocksTurn_eq {s u : State} (h : blocksTurn s = some u) : ∃ rest, u = { s with host := rest } := by
  rcases blocksTurn_cases h with rfl | ⟨rest, -, rfl⟩
  · exact ⟨u.host, rfl⟩
  · exact ⟨rest, rfl⟩

/-- When the turn is the block's, the step is the block's. -/
theorem step_of_blocksTurn {s u : State} (h : blocksTurn s = some u) : step s = blockStep u := by
  rw [step, wholeStep, h]

/-- When the turn is the block's, what the step answers is one of the block's cases. -/
theorem blockCase_of_step {s u t : State} (hu : blocksTurn s = some u) (h : step s = .next t) : BlockCase u t :=
  blockStep_cases ((step_of_blocksTurn hu).symm.trans h)

/-- Settles O30, by the block's step in each of the four sequencer states. -/
theorem stepRunsTheSelectedInstruction : Obligations.StepRunsTheSelectedInstruction := by
  intro s u hu
  rw [step_of_blocksTurn hu]
  refine ⟨fun w i hs hc hd => ?idle, fun hs => ?wrWe, fun hs => ?wrWp, fun hs => ?rdSra⟩
  case idle => simp only [blockStep, hs, idleStep, hc, hd]
  case wrWe => simp only [blockStep, hs]
  case wrWp => simp only [blockStep, hs, State.target]
  case rdSra => simp only [blockStep, hs]

/-! ## What a step can answer -/

/-- The presented word taken in `IDLE` is accepted, completed at once or refused: the step answers a next state. -/
theorem idleStep_isNext {u : State} (hs : u.seq = .idle) : ∃ t, idleStep u = .next t := by
  unfold idleStep
  split
  · exact ⟨_, rfl⟩
  split
  · next i hd =>
    rcases decodeHost_ok_cases hd with rfl | rfl | rfl
    · exact ⟨_, exec_init_idle hs⟩
    · exact ⟨_, by simp only [exec, execWrite, hs]; rfl⟩
    · exact ⟨_, by simp only [exec, execRead, hs]; rfl⟩
  · exact ⟨_, rfl⟩

/-- Outside `FAULTED` the block's step answers a next state. -/
theorem blockStep_isNext {u : State} (hs : u.seq ≠ .faulted) : ∃ t, blockStep u = .next t := by
  unfold blockStep
  split
  · next hs => exact idleStep_isNext hs
  · next hs => exact ⟨_, by simp only [exec, execFrameWe, hs]; rfl⟩
  · next hs => exact ⟨_, by simp only [exec, execFrameWp, hs, State.payload_length, ne_eq, not_true, if_false]; rfl⟩
  · next hs => exact ⟨_, by simp only [exec, execFrameSra, hs]; rfl⟩
  · exact ⟨_, rfl⟩
  · next hf => exact absurd hf hs

/-- In `FAULTED` the block has no step (R152). -/
theorem step_of_faulted {s u : State} (hu : blocksTurn s = some u) (hs : u.seq = .faulted) :
    step s = .fault (.faulted u.fault) := by
  rw [step_of_blocksTurn hu, blockStep, hs]

/-- A step answers a next state, or it is the block's turn in `FAULTED`. -/
theorem step_isNext_or_faulted (s : State) :
    (∃ t, step s = .next t) ∨ ∃ u, blocksTurn s = some u ∧ u.seq = .faulted := by
  cases hu : blocksTurn s with
  | none => exact .inl ⟨hostStep s, by rw [step, wholeStep, hu]⟩
  | some u =>
    by_cases hs : u.seq = .faulted
    · exact .inr ⟨u, rfl, hs⟩
    · rw [step_of_blocksTurn hu]
      exact .inl (blockStep_isNext hs)

/-- Settles O33: a step answers a next state or a fault. -/
theorem noStepIsRefused : Obligations.NoStepIsRefused := by
  intro s r h
  rcases step_isNext_or_faulted s with ⟨t, ht⟩ | ⟨u, hu, hs⟩
  · cases ht.symm.trans h
  · cases (step_of_faulted hu hs).symm.trans h

/-- Settles O34: outside `FAULTED` a step answers a next state, and in it the fault that `FAULT` holds. -/
theorem onlyFaultedStops : Obligations.OnlyFaultedStops := by
  refine fun s f => ⟨fun h => ?stops, fun ⟨u, hu, hs, hf⟩ => hf ▸ step_of_faulted hu hs⟩
  case stops =>
    rcases step_isNext_or_faulted s with ⟨t, ht⟩ | ⟨u, hu, hs⟩
    · cases ht.symm.trans h
    · cases (step_of_faulted hu hs).symm.trans h
      exact ⟨u, hu, hs, rfl⟩

/-! ## Where a step takes the sequencer -/

/-- Before the last page `PI` goes up by one, and on it `PI` stays (R126, R127). -/
theorem State.sendWp_pi (s : State) (a : Addr) (d : List Byte) :
    (s.sendWp a d).pi = if s.lastPage then s.pi else s.pi + 1 := by
  cases hl : s.lastPage
  · simp [State.sendWp_next s a d hl]
  · simp [State.sendWp_last s a d hl]

/-- From `IDLE` the block waits, completes a command, or starts a Write at page 0 or a Read. -/
theorem BlockCase.seq_of_idle {u t : State} (h : BlockCase u t) (hs : u.seq = .idle) :
    t.seq = .idle ∨ (t.seq = .wrWe ∧ t.pi = 0) ∨ t.seq = .rdSra := by
  cases h with
  | wait | refused => exact .inl hs
  | init | writeReject | readReject => exact .inl rfl
  | writeStart => exact .inr (.inl ⟨rfl, rfl⟩)
  | readStart => exact .inr (.inr rfl)
  | _ => simp_all

/-- From `WR_WE` the block goes on to `WR_WP`, or takes the fault that R129 admits there. -/
theorem BlockCase.seq_of_wrWe {u t : State} (h : BlockCase u t) (hs : u.seq = .wrWe) :
    t.pi = u.pi ∧ (t.seq = .wrWp ∨ t.seq = .faulted) := by
  cases h with
  | nullEarly => exact ⟨rfl, .inr rfl⟩
  | nullLate | writeEnable => exact ⟨rfl, .inl rfl⟩
  | _ => simp_all

/-- From `WR_WP` the block goes on to the next page, completes the Write on the last one, or faults. -/
theorem BlockCase.seq_of_wrWp {u t : State} (h : BlockCase u t) (hs : u.seq = .wrWp) :
    (t.seq = .wrWe ∧ t.pi = u.pi + 1 ∧ u.pi.toNat + 1 ≠ u.np.toNat) ∨
      (t.seq = .idle ∧ t.pi = u.pi ∧ u.pi.toNat + 1 = u.np.toNat) ∨ t.seq = .faulted := by
  cases h with
  | writePage =>
    rw [State.sendWp_seq, State.sendWp_pi, Ne, ← State.lastPage_iff]
    cases u.lastPage <;> simp
  | nullSource | srcOverrun => exact .inr (.inr rfl)
  | _ => simp_all

/-- From `RD_SRA` the block goes on to the receive, or the Read ends (R138). -/
theorem BlockCase.seq_of_rdSra {u t : State} (h : BlockCase u t) (hs : u.seq = .rdSra) :
    t.seq = .rdRx ∨ t.seq = .idle := by
  cases h with
  | select => exact .inl rfl
  | selectFails => exact .inr rfl
  | _ => simp_all

/-- From `RD_RX` the Read ends, or its destination faults. -/
theorem BlockCase.seq_of_rdRx {u t : State} (h : BlockCase u t) (hs : u.seq = .rdRx) :
    t.seq = .idle ∨ t.seq = .faulted := by
  cases h with
  | receive => exact .inl rfl
  | nullDest | dstOverrun => exact .inr rfl
  | _ => simp_all

/-- Settles O31, one sequencer state after the other. -/
theorem sequencerMovesAsAProgramCounter : Obligations.SequencerMovesAsAProgramCounter := by
  intro s u t hu h
  have hb := blockCase_of_step hu h
  exact ⟨hb.seq_of_idle, hb.seq_of_wrWe, hb.seq_of_wrWp, hb.seq_of_rdSra, hb.seq_of_rdRx, hb.seq_ne_faulted⟩

end Sys2Proof.Machine

/-! ## What a step leaves unchanged, and what it may change: one law per field -/

namespace Sys2Proof.Machine

open Sys2Proof

/-- No step of the block writes the configuration (R36). -/
theorem BlockCase.cfg_eq {u t : State} (h : BlockCase u t) : t.cfg = u.cfg := by
  cases h with
  | init => simp
  | writePage => exact State.sendWp_cfg u _ _
  | _ => rfl

/-- Settles O44: no step of the block, of the host or of the reset writes the configuration. -/
theorem configurationIsNeverWritten : Obligations.ConfigurationIsNeverWritten := by
  intro s t h
  rcases step_cases h with
    ⟨u, hu, hb⟩ | ⟨w, hd, rest, -, -, rfl⟩ | ⟨rest, -, rfl⟩ | ⟨rest, -, rfl⟩ | ⟨a, b, rest, -, rfl⟩
  · obtain ⟨rest, rfl⟩ := blocksTurn_eq hu
    exact hb.cfg_eq
  · rfl
  · rfl
  · split <;> rfl
  · rfl

/-- A busy block leaves the presented word and its handle (R110). -/
theorem BlockCase.holds_command {u t : State} (h : BlockCase u t) (hs : u.seq ≠ .idle) :
    t.cmd = u.cmd ∧ t.hnd = u.hnd := by
  cases h with
  | wait hs' | refused _ _ hs' | init _ hs' | writeStart _ _ _ _ hs' | writeReject _ _ _ _ hs'
  | readStart _ _ _ _ hs' | readReject _ _ _ _ hs' => exact absurd hs' hs
  | writePage => exact ⟨State.sendWp_cmd u _ _, State.sendWp_hnd u _ _⟩
  | _ => exact ⟨rfl, rfl⟩

/-- Settles O32: the frame steps and the receive hold the command, and in `FAULTED` there is no step. -/
theorem busyBlockHoldsTheCommand : Obligations.BusyBlockHoldsTheCommand :=
  ⟨fun _ _ _ hu hs h => (blockCase_of_step hu h).holds_command hs, fun _ _ => step_of_faulted⟩

/-! ### The host's memory (R61) -/

/-- Of the block's steps only the receive writes the host's memory (R61, R140). -/
theorem BlockCase.mem_cases {u t : State} (h : BlockCase u t) :
    t.mem = u.mem ∨
      (u.seq = .rdRx ∧ u.bp = true ∧ u.dstShort = false ∧ t.mem = memWrite u.mem u.dst 0 (u.rxBytes u.cl.toNat)) := by
  cases h with
  | receive hs hb ho => exact .inr ⟨hs, hb, ho, rfl⟩
  | init => exact .inl (by simp)
  | writePage => exact .inl (State.sendWp_mem u _ _)
  | _ => exact .inl rfl

/-- A byte that a write through a handle changes is one of the bytes written (R54). -/
theorem mem_memWrite_range {m : Memory} {h : Option Handle} {v : List Byte} {a : Nat}
    (hne : (memWrite m h 0 v).get a ≠ m.get a) : handleBase h ≤ a ∧ a < handleBase h + v.length := by
  by_contra hout
  exact hne (Memory.get_writeBytes_outside v (by omega))

/-- Settles O45: of the block's steps only the receive writes memory, and of the host's only its own write, at its
own address. -/
theorem onlyTheHostAndTheReceiveChangeMemory : Obligations.OnlyTheHostAndTheReceiveChangeMemory := by
  intro s t a h hne
  rcases step_cases h with
    ⟨u, hu, hb⟩ | ⟨w, hd, rest, -, -, rfl⟩ | ⟨rest, -, rfl⟩ | ⟨rest, -, rfl⟩ | ⟨a', b, rest, hh, rfl⟩
  · have hmem : u.mem = s.mem := by
      obtain ⟨rest, rfl⟩ := blocksTurn_eq hu
      rfl
    rcases hb.mem_cases with hkept | ⟨hs, hbp, hlong, hwritten⟩
    · exact absurd (by rw [hkept, hmem]) hne
    · rw [hwritten, ← hmem] at hne
      obtain ⟨hlo, hhi⟩ := mem_memWrite_range hne
      rw [State.rxBytes_length] at hhi
      rw [Bool.eq_false_iff, Ne, State.dstShort_iff, Nat.not_lt] at hlong
      exact .inr ⟨u, hu, hs, hbp, hlong, hlo, hhi⟩
  · exact absurd rfl hne
  · exact absurd rfl hne
  · split at hne <;> exact absurd rfl hne
  · by_cases haddr : a = a'
    · exact .inl ⟨b, rest, haddr ▸ hh⟩
    · exact absurd (Memory.get_set_other b haddr) hne

/-! ### The refusal mark (R154) -/

/-- A step of the block keeps the mark, or adds the refusal of the presented word to it. -/
theorem BlockCase.mark_grows {u t : State} (h : BlockCase u t) : ∃ more, t.mark = u.mark ++ more := by
  cases h with
  | refused w r => exact ⟨[r], rfl⟩
  | init => exact ⟨[], by simp⟩
  | writePage => exact ⟨[], by simp⟩
  | _ => exact ⟨[], (List.append_nil _).symm⟩

/-- Every step keeps the mark. -/
theorem step_mark_grows {s t : State} (h : step s = .next t) : ∃ more, t.mark = s.mark ++ more := by
  rcases step_cases h with
    ⟨u, hu, hb⟩ | ⟨w, hd, rest, -, -, rfl⟩ | ⟨rest, -, rfl⟩ | ⟨rest, -, rfl⟩ | ⟨a, b, rest, -, rfl⟩
  · obtain ⟨rest, rfl⟩ := blocksTurn_eq hu
    exact hb.mark_grows
  · exact ⟨[], (List.append_nil _).symm⟩
  · exact ⟨[], (List.append_nil _).symm⟩
  · split
    · exact ⟨[.statusUnset], rfl⟩
    · exact ⟨[], (List.append_nil _).symm⟩
  · exact ⟨[], (List.append_nil _).symm⟩

/-- A presented word that is refused sets the mark and is withdrawn; nothing else changes. -/
theorem step_refused_word {s : State} {w : CmdWord} {r : HostRefusal} (hh : s.host = []) (hs : s.seq = .idle)
    (hc : s.cmd = some w) (hd : decodeHost w = .error r) : step s = .next (s.accept.refuse r) := by
  rw [step_of_host_nil hh]
  simp only [blockStep, hs, idleStep, hc, hd]

/-- The host's read of `STATUS` (R33, R154). -/
theorem step_readStatus {s : State} {rest : List HostAction} (h : s.host = .readStatus :: rest) :
    step s = .next (hostAct .readStatus { s with host := rest }) := by
  have hturn : blocksTurn s = none := by rw [blocksTurn, h]
  rw [step, wholeStep, hturn, hostStep, h]

/-- Settles O35: the word's number fixes its refusal, and the host's read looks at `STATUS`. -/
theorem refusalsSetTheMark : Obligations.RefusalsSetTheMark := by
  refine ⟨fun s w r hh hs hc hword => ?word, fun s rest hh hst => ?unset, fun s rest hh hst => ?isSet,
    fun s t => step_mark_grows⟩
  case word =>
    obtain ⟨hzero, -, hrsv, -⟩ := hostDecodeInOrder w
    have hd : decodeHost w = .error r := by
      rcases hword with ⟨ho, rfl⟩ | ⟨ho, hr, rfl⟩
      · exact hzero ho
      · exact hrsv ho hr
    exact ⟨_, step_refused_word hh hs hc hd, rfl, rfl⟩
  case unset => rw [step_readStatus hh, hostAct, hst]; rfl
  case isSet =>
    obtain ⟨st, hst⟩ := Option.ne_none_iff_exists'.mp hst
    rw [step_readStatus hh, hostAct, hst]
    rfl

/-! ## The sequencer state an instruction belongs to (R96, R110) -/

/-- The sequencer state in which an instruction is taken. -/
def turnOf : Instr → Seq
  | .init | .write _ _ _ | .read _ _ _ => .idle
  | .frameWe => .wrWe
  | .frameWp _ _ => .wrWp
  | .frameSra _ => .rdSra

/-- In another sequencer state an instruction is held. -/
theorem exec_eq_held {i : Instr} {s : State} (h : s.seq ≠ turnOf i) : exec i s = s.held := by
  cases i
  all_goals
    simp only [exec, execInit, execWrite, execRead, execFrameWe, execFrameWp, execFrameSra]
    split
    · next hs => exact absurd hs h
    · rfl

/-- No instruction is taken in `FAULTED` (R152). -/
theorem turnOf_ne_faulted (i : Instr) : turnOf i ≠ .faulted := by
  cases i <;> simp [turnOf]

theorem State.held_of_faulted {s : State} (h : s.seq = .faulted) : s.held = .fault (.faulted s.fault) := by
  simp only [State.held, h]

theorem State.held_of_not_faulted {s : State} (h : s.seq ≠ .faulted) : s.held = .next s := by
  unfold State.held
  split
  · exact absurd ‹_› h
  all_goals rfl

/-- In `FAULTED` every instruction answers the fault (R152). -/
theorem exec_faulted {s : State} (hs : s.seq = .faulted) (i : Instr) : exec i s = .fault (.faulted s.fault) := by
  rw [exec_eq_held (hs ▸ (turnOf_ne_faulted i).symm), State.held_of_faulted hs]

/-- Settles O26: an instruction out of its turn is held. -/
theorem outOfTurnInstructionsAreHeld : Obligations.OutOfTurnInstructionsAreHeld := by
  intro s i h
  have hturn : s.seq ≠ turnOf i := by cases i <;> exact h
  rw [exec_eq_held hturn]
  exact ⟨State.held_of_not_faulted, State.held_of_faulted⟩

/-- Settles O38: no instruction's turn is `FAULTED`, and a step that is no reset stays on its side of it. -/
theorem faultedIsLeftOnlyByReset : Obligations.FaultedIsLeftOnlyByReset := by
  intro s hs
  have hnotWell : ¬s.EndedWell := fun hwell => by cases hs.symm.trans hwell.1
  refine ⟨exec_faulted hs, hnotWell, fun t h hleft => ?_⟩
  rcases step_fault_cases h with ⟨-, -, hin, -⟩ | ⟨-, -, hreset⟩ | ⟨-, hstays⟩
  · exact absurd hin hleft
  · exact hreset
  · exact absurd (hstays.mpr hs) hleft

/-! ## The frames of the instructions: what each leaves unchanged -/

/-- What INIT alone leaves. -/
theorem execInit_frame {s t : State} (h : exec .init s = .next t) :
    t.seq = s.seq ∧ t.ca = s.ca ∧ t.cl = s.cl ∧ t.bp = s.bp ∧ t.np = s.np ∧ t.pi = s.pi ∧ t.wes = s.wes ∧
      t.fault = s.fault ∧ t.src = s.src ∧ t.dst = s.dst := by
  rcases execInit_cases h with ⟨hs, rfl⟩ | ⟨-, -, rfl⟩
  · simp [hs]
  · simp

/-- What WRITE alone leaves. -/
theorem execWrite_frame {s t : State} {bp : Bool} {a : Addr} {l : Len} (h : exec (.write bp a l) s = .next t) :
    t.init = s.init ∧ t.wes = s.wes ∧ t.fault = s.fault ∧ t.dst = s.dst := by
  rcases execWrite_cases h with ⟨-, -, rfl⟩ | ⟨-, -, rfl⟩ | ⟨-, -, rfl⟩ <;> simp

/-- What READ alone leaves. -/
theorem execRead_frame {s t : State} {bp : Bool} {a : Addr} {l : Len} (h : exec (.read bp a l) s = .next t) :
    t.init = s.init ∧ t.np = s.np ∧ t.pi = s.pi ∧ t.wes = s.wes ∧ t.fault = s.fault ∧ t.src = s.src := by
  rcases execRead_cases h with ⟨-, -, rfl⟩ | ⟨-, -, rfl⟩ | ⟨-, -, rfl⟩ <;> simp

/-- What all host commands leave: everything outside the block, but for the command they take. -/
theorem hostCommand_frame {s t : State} {i : Instr} (hi : turnOf i = .idle) (h : exec i s = .next t) :
    t.mark = s.mark ∧ t.cfg = s.cfg ∧ t.hnd = s.hnd ∧ t.host = s.host ∧ t.txAns = s.txAns ∧ t.rxAns = s.rxAns ∧
      t.nullAns = s.nullAns ∧ t.draws = s.draws ∧ t.mem = s.mem := by
  cases i with
  | init => rcases execInit_cases h with ⟨-, rfl⟩ | ⟨-, -, rfl⟩ <;> simp
  | write => rcases execWrite_cases h with ⟨-, -, rfl⟩ | ⟨-, -, rfl⟩ | ⟨-, -, rfl⟩ <;> simp
  | read => rcases execRead_cases h with ⟨-, -, rfl⟩ | ⟨-, -, rfl⟩ | ⟨-, -, rfl⟩ <;> simp
  | frameWe | frameWp | frameSra => cases hi

/-- Settles O18, by the frame of each host command and the one they share. -/
theorem hostCommandsKeepTheRest : Obligations.HostCommandsKeepTheRest := by
  refine fun s t => ⟨execInit_frame, fun _ _ _ => execWrite_frame, fun _ _ _ => execRead_frame, fun i hi h => ?_⟩
  have hturn : turnOf i = .idle := by
    rcases hi with rfl | ⟨bp, a, l, rfl⟩ | ⟨bp, a, l, rfl⟩ <;> rfl
  obtain ⟨hmark, hcfg, hhnd, hhost, htx, hrx, hnull, hdraws, hmem⟩ := hostCommand_frame hturn h
  exact ⟨hmark, hcfg, hhnd, hhost, htx, hrx, hnull, hdraws, fun a => by rw [hmem]⟩

/-- What FRAME_WE alone leaves. -/
theorem execFrameWe_frame {s t : State} (h : exec .frameWe s = .next t) : t.pi = s.pi ∧ t.status = s.status := by
  rcases execFrameWe_cases h with ⟨-, -, -, rfl⟩ | ⟨-, -, -, rfl⟩ | ⟨-, -, rfl⟩ | ⟨-, -, rfl⟩ <;> simp

/-- What FRAME_WP alone leaves. -/
theorem execFrameWp_frame {s t : State} {a : Addr} {d : List Byte} (h : exec (.frameWp a d) s = .next t) :
    t.wes = s.wes ∧ t.nullAns = s.nullAns := by
  rcases execFrameWp_cases h with ⟨-, -, -, rfl⟩ | ⟨-, -, -, -, rfl⟩ | ⟨-, -, -, -, rfl⟩ | ⟨-, -, rfl⟩ <;> simp

/-- What FRAME_SRA alone leaves. -/
theorem execFrameSra_frame {s t : State} {a : Addr} (h : exec (.frameSra a) s = .next t) :
    t.pi = s.pi ∧ t.wes = s.wes ∧ t.fault = s.fault ∧ t.nullAns = s.nullAns := by
  rcases execFrameSra_cases h with ⟨-, -, rfl⟩ | ⟨-, -, rfl⟩ | ⟨-, -, rfl⟩ <;> simp

/-- What all frames leave: the latched operands, the command interface, and memory. -/
theorem frameInstr_frame {s t : State} {i : Instr} (hi : turnOf i ≠ .idle) (h : exec i s = .next t) :
    t.init = s.init ∧ t.ca = s.ca ∧ t.cl = s.cl ∧ t.bp = s.bp ∧ t.np = s.np ∧ t.src = s.src ∧ t.dst = s.dst ∧
      t.mark = s.mark ∧ t.cfg = s.cfg ∧ t.cmd = s.cmd ∧ t.hnd = s.hnd ∧ t.host = s.host ∧ t.rxAns = s.rxAns ∧
      t.mem = s.mem := by
  cases i with
  | init | write | read => exact absurd rfl hi
  | frameWe =>
    rcases execFrameWe_cases h with ⟨-, -, -, rfl⟩ | ⟨-, -, -, rfl⟩ | ⟨-, -, rfl⟩ | ⟨-, -, rfl⟩ <;> simp
  | frameWp =>
    rcases execFrameWp_cases h with ⟨-, -, -, rfl⟩ | ⟨-, -, -, -, rfl⟩ | ⟨-, -, -, -, rfl⟩ | ⟨-, -, rfl⟩ <;> simp
  | frameSra => rcases execFrameSra_cases h with ⟨-, -, rfl⟩ | ⟨-, -, rfl⟩ | ⟨-, -, rfl⟩ <;> simp

/-- Settles O25, by the frame of each frame instruction and the one they share. -/
theorem framesKeepTheRest : Obligations.FramesKeepTheRest := by
  refine fun s t =>
    ⟨execFrameWe_frame, fun _ _ => execFrameWp_frame, fun _ => execFrameSra_frame, fun i hi h => ?_⟩
  have hturn : turnOf i ≠ .idle := by
    rcases hi with rfl | ⟨a, d, rfl⟩ | ⟨a, rfl⟩ <;> simp [turnOf]
  obtain ⟨hinit, hca, hcl, hbp, hnp, hsrc, hdst, hmark, hcfg, hcmd, hhnd, hhost, hrx, hmem⟩ := frameInstr_frame hturn h
  exact ⟨hinit, hca, hcl, hbp, hnp, hsrc, hdst, hmark, hcfg, hcmd, hhnd, hhost, hrx, fun a => by rw [hmem]⟩

/-! ## Single steps and states -/

/-- A payload that is not one page long is refused (R92). -/
theorem exec_frameWp_illegal {s : State} {a : Addr} {d : List Byte} (hs : s.seq = .wrWp) (hd : d.length ≠ pageSize) :
    exec (.frameWp a d) s = .refused (.illegalPayload d.length) := by
  simp [exec, execFrameWp, hs, hd]

/-- Settles O23, by the payload check, which the sequencer's own payload passes. -/
theorem illegalPayloadStops : Obligations.IllegalPayloadStops :=
  ⟨fun _ _ _ => exec_frameWp_illegal, State.payload_length⟩

/-- Settles O54: the null source is the first thing the step looks at (R156). -/
theorem nullSourceFaultsWhateverTheState : Obligations.NullSourceFaultsWhateverTheState := by
  intro s hh hs hb
  rw [step_wrWp hh hs, exec_frameWp_null hs s.payload_length hb]
  rfl

/-- Settles O55, by the step that does the reset. -/
theorem resetKeepsTheMark : Obligations.ResetKeepsTheMark :=
  fun s rest hh => ⟨{ s with host := rest }.doReset, step_of_host_reset hh, rfl, rfl, rfl⟩

/-- Settles O37: the fields of the state after power-on. -/
theorem powerOnState : Obligations.PowerOnState := ⟨rfl, rfl, rfl, rfl, rfl, rfl, rfl⟩

end Sys2Proof.Machine

/-! The trace (R37): what a step appends to it, how a command completes (R145), the record of a fault entry (R152),
and the obligations about them. -/

namespace Sys2Proof.Machine

open Sys2Proof

/-! ## One legal transaction at most (R59, R95) -/

/-- What a step may append: legal events, at most one of them a transaction. -/
def LegalTraffic (cfg : Config) (es : List Event) : Prop :=
  (∀ e ∈ es, EventLegal cfg e) ∧ (es.filter Event.isTransaction).length ≤ 1

/-- An event that is no transaction is legal. -/
theorem eventLegal_of_not_transaction {cfg : Config} {e : Event} (h : e.isTransaction = false) : EventLegal cfg e := by
  cases e with
  | tx | rx => cases h
  | extInitSetup | done | faulted => trivial

/-- Events of which none is a transaction have none left when the transactions are taken out of them. -/
theorem filter_isTransaction_eq_nil {es : List Event} (h : ∀ e ∈ es, e.isTransaction = false) :
    es.filter Event.isTransaction = [] :=
  List.filter_eq_nil_iff.mpr fun e he => by simp [h e he]

/-- Events of which none is a transaction may be appended. -/
theorem legalTraffic_of_none {cfg : Config} {es : List Event} (h : ∀ e ∈ es, e.isTransaction = false) :
    LegalTraffic cfg es := by
  refine ⟨fun e he => eventLegal_of_not_transaction (h e he), ?_⟩
  rw [filter_isTransaction_eq_nil h]
  exact Nat.zero_le 1

/-- A legal event may go before them. -/
theorem legalTraffic_cons {cfg : Config} {e : Event} {es : List Event} (he : EventLegal cfg e)
    (h : ∀ e ∈ es, e.isTransaction = false) : LegalTraffic cfg (e :: es) := by
  obtain ⟨hlegal, -⟩ := legalTraffic_of_none (cfg := cfg) h
  refine ⟨List.forall_mem_cons.mpr ⟨he, hlegal⟩, ?_⟩
  rw [List.filter_cons, filter_isTransaction_eq_nil h]
  split <;> simp

/-- A transmit of the frame of a well-formed instruction to `DEV_ADDR` is legal (R94). -/
theorem eventLegal_tx {cfg : Config} {i : Instr} {f : List Byte} (hi : i.WellFormed) (h : encode i = .frame f)
    (st : Status) : EventLegal cfg (.tx cfg.devAddr f st) :=
  ⟨rfl, frameLegal_of_encode hi h⟩

/-- The receive of a Read has the width of `CL`, which its precondition keeps from 0 (R58, R136). -/
theorem eventLegal_rx {u : State} (hpre : u.readPre = true) :
    EventLegal u.cfg (.rx u.cfg.devAddr u.cl.toNat u.rxStatus (u.rxBytes u.cl.toNat)) := by
  obtain ⟨-, -, hne⟩ := State.readPre_iff.mp hpre
  exact ⟨rfl, u.rxBytes_length _, Nat.one_le_iff_ne_zero.mpr hne, Nat.le_of_lt_succ u.cl.isLt⟩

/-- The write-page step sends its page, and then completes the Write or not. -/
theorem State.sendWp_trace (s : State) (a : Addr) (d : List Byte) :
    (s.sendWp a d).trace =
      s.trace ++ .tx s.cfg.devAddr (encWP a d) s.txAnswer ::
        if s.lastPage then [.done .write (pairStatus s.wes s.txAnswer)] else [] := by
  cases hl : s.lastPage
  · simp [State.sendWp_next s a d hl]
  · simp [State.sendWp_last s a d hl]

/-- What the block's step appends is legal, with one transaction at most. -/
theorem BlockCase.legal_traffic {u t : State} (h : BlockCase u t) (hread : ReadInv u) :
    ∃ es, t.trace = u.trace ++ es ∧ LegalTraffic u.cfg es := by
  cases h with
  | wait | refused | writeStart | readStart =>
    exact ⟨[], (List.append_nil _).symm, legalTraffic_of_none (by simp)⟩
  | init =>
    refine ⟨_, u.acceptedInit_trace, legalTraffic_of_none ?_⟩
    split <;> simp [Event.isTransaction]
  | writeReject | readReject => exact ⟨_, rfl, legalTraffic_of_none (by simp [Event.isTransaction])⟩
  | nullEarly | nullSource | srcOverrun | nullDest | dstOverrun =>
    exact ⟨_, rfl, legalTraffic_of_none (by simp [Event.isTransaction])⟩
  | nullLate | writeEnable =>
    exact ⟨_, rfl, legalTraffic_cons (eventLegal_tx (i := .frameWe) rfl rfl _) (by simp)⟩
  | writePage =>
    refine ⟨_, u.sendWp_trace _ _, legalTraffic_cons ?_ ?_⟩
    · exact eventLegal_tx (i := .frameWp u.target u.payload) (wellFormed_frameWp.mpr u.payload_length) rfl _
    · split <;> simp [Event.isTransaction]
  | selectFails =>
    exact ⟨_, List.append_assoc _ _ _,
      legalTraffic_cons (eventLegal_tx (i := .frameSra u.ca) rfl rfl _) (by simp [Event.isTransaction])⟩
  | select => exact ⟨_, rfl, legalTraffic_cons (eventLegal_tx (i := .frameSra u.ca) rfl rfl _) (by simp)⟩
  | receive hs =>
    exact ⟨_, List.append_assoc _ _ _,
      legalTraffic_cons (eventLegal_rx (hread (.inr hs)).1) (by simp [Event.isTransaction])⟩

/-- Settles O42: the block's step by its cases; the host and the reset append nothing. -/
theorem stepAppendsOneLegalTransaction : Obligations.StepAppendsOneLegalTransaction := by
  intro s t hread h
  have hnothing : LegalTraffic s.cfg [] := legalTraffic_of_none (by simp)
  rcases step_cases h with
    ⟨u, hu, hb⟩ | ⟨w, hd, rest, -, -, rfl⟩ | ⟨rest, -, rfl⟩ | ⟨rest, -, rfl⟩ | ⟨a, b, rest, -, rfl⟩
  · obtain ⟨rest, rfl⟩ := blocksTurn_eq hu
    exact hb.legal_traffic hread
  · exact ⟨[], (List.append_nil _).symm, hnothing⟩
  · exact ⟨[], (List.append_nil _).symm, hnothing⟩
  · refine ⟨[], ?_, hnothing⟩
    split <;> exact (List.append_nil _).symm
  · exact ⟨[], (List.append_nil _).symm, hnothing⟩

/-! ## Completion (R145) -/

/-- A step that completes a command: one `Done`, the last event it appends, with `STATUS` and `IDLE`. -/
def CompletesTo (s t : State) : Prop :=
  ∃ es op st, t.trace = s.trace ++ es ++ [.done op st] ∧ (∀ op' st', .done op' st' ∉ es) ∧ t.status = some st ∧
    t.seq = .idle

/-- A step that completes no command: no `Done` appended, and `STATUS` kept. -/
def GoesOnTo (s t : State) : Prop :=
  ∃ es, t.trace = s.trace ++ es ∧ (∀ op st, .done op st ∉ es) ∧ t.status = s.status

/-- `complete` completes, after whatever events without a `Done` its step has appended before. -/
theorem completesTo_complete {s u : State} {es : List Event} (htrace : u.trace = s.trace ++ es)
    (hes : ∀ op st, .done op st ∉ es) (op : Op) (st : Status) : CompletesTo s (u.complete op st) :=
  ⟨es, op, st, by rw [State.complete_trace, htrace], hes, rfl, rfl⟩

/-- A step that appends nothing and keeps `STATUS` completes no command. -/
theorem goesOnTo_of_eq {s t : State} (htrace : t.trace = s.trace) (hstatus : t.status = s.status) : GoesOnTo s t :=
  ⟨[], by rw [htrace, List.append_nil], by simp, hstatus⟩

/-- A step that appends one event, not a `Done`, and keeps `STATUS` completes no command. -/
theorem goesOnTo_of_event {s t : State} {e : Event} (htrace : t.trace = s.trace ++ [e])
    (he : ∀ op st, e ≠ .done op st) (hstatus : t.status = s.status) : GoesOnTo s t :=
  ⟨[e], htrace, fun op st hmem => he op st (List.mem_singleton.mp hmem).symm, hstatus⟩

/-- An accepted command that is completed in its acceptance step appends its `Done` alone. -/
theorem completesTo_of_accepted {s u : State} (htrace : u.trace = s.trace) (op : Op) (st : Status) :
    CompletesTo s (u.complete op st) :=
  completesTo_complete (es := []) (by rw [htrace, List.append_nil]) (by simp) op st

/-- A transmit that completes its command appends itself and the `Done`. -/
theorem completesTo_of_transmit (s : State) (f : List Byte) (op : Op) (st : Status) :
    CompletesTo s ((s.transmit f).complete op st) :=
  completesTo_complete (es := [_]) rfl (by simp) op st

/-- The set-up of a first INIT appends no `Done` (R113). -/
theorem completesTo_of_init (s : State) : CompletesTo s (s.accept.setUp.complete .init .ok) := by
  have hsetUp := State.setUp_trace s.accept
  split at hsetUp
  · exact completesTo_of_accepted hsetUp .init .ok
  · exact completesTo_complete hsetUp (by simp) .init .ok

/-- A step of the block completes a command or does not. -/
theorem BlockCase.completion {u t : State} (h : BlockCase u t) : CompletesTo u t ∨ GoesOnTo u t := by
  cases h with
  | wait | refused | writeStart | readStart => exact .inr (goesOnTo_of_eq rfl rfl)
  | init => exact .inl (completesTo_of_init u)
  | writeReject | readReject => exact .inl (completesTo_of_accepted rfl _ _)
  | nullEarly | nullSource | srcOverrun | nullDest | dstOverrun | nullLate | writeEnable | select =>
    exact .inr (goesOnTo_of_event rfl (by simp) rfl)
  | writePage =>
    cases hl : u.lastPage
    · rw [State.sendWp_next u _ _ hl]
      exact .inr (goesOnTo_of_event rfl (by simp) rfl)
    · rw [State.sendWp_last u _ _ hl]
      exact .inl (completesTo_of_transmit u _ _ _)
  | selectFails => exact .inl (completesTo_of_transmit u _ _ _)
  | receive => exact .inl ⟨[_], .read, _, rfl, by simp, rfl, rfl⟩

/-- A step completes a command, or does not, or is a reset, which appends nothing. -/
theorem step_completion {s t : State} (h : step s = .next t) :
    CompletesTo s t ∨ GoesOnTo s t ∨ (t.trace = s.trace ∧ t.status = none ∧ ∃ rest, s.host = .reset :: rest) := by
  rcases step_cases h with
    ⟨u, hu, hb⟩ | ⟨w, hd, rest, -, -, rfl⟩ | ⟨rest, hh, rfl⟩ | ⟨rest, -, rfl⟩ | ⟨a, b, rest, -, rfl⟩
  · obtain ⟨rest, rfl⟩ := blocksTurn_eq hu
    exact hb.completion.imp_right .inl
  · exact .inr (.inl (goesOnTo_of_eq rfl rfl))
  · exact .inr (.inr ⟨rfl, rfl, rest, hh⟩)
  · refine .inr (.inl ?_)
    split <;> exact goesOnTo_of_eq rfl rfl
  · exact .inr (.inl (goesOnTo_of_eq rfl rfl))

/-- Settles O46, by the three ways in which a step can go about `STATUS`. -/
theorem completionIsOneDoneAndTheStatus : Obligations.CompletionIsOneDoneAndTheStatus := by
  intro s t h
  rcases step_completion h with hdone | ⟨es, htrace, hes, hstatus⟩ | ⟨htrace, hstatus, hreset⟩
  · exact .inl hdone
  · exact .inr ⟨es, htrace, hes, .inl hstatus⟩
  · exact .inr ⟨[], by rw [htrace, List.append_nil], by simp, .inr ⟨hstatus, hreset⟩⟩

/-! ## The record of a fault entry (R152, R192) -/

/-- The trace is only appended to (R37). -/
theorem step_trace_grows {s t : State} (h : step s = .next t) : ∃ es, t.trace = s.trace ++ es := by
  rcases step_completion h with ⟨es, op, st, htrace, -⟩ | ⟨es, htrace, -⟩ | ⟨htrace, -⟩
  · exact ⟨es ++ [.done op st], by rw [htrace, List.append_assoc]⟩
  · exact ⟨es, htrace⟩
  · exact ⟨[], by rw [htrace, List.append_nil]⟩

/-- Every step keeps the record of a fault entry, a reset among them. -/
theorem step_keeps_reachedFaulted {s t : State} (h : step s = .next t) (hs : s.reachedFaulted = true) :
    t.reachedFaulted = true := by
  obtain ⟨es, htrace⟩ := step_trace_grows h
  exact State.reachedFaulted_of_trace htrace hs

/-- Every run keeps the record of a fault entry. -/
theorem steps_keep_reachedFaulted {s t : State} {k : Nat} (h : steps k s = .next t) (hs : s.reachedFaulted = true) :
    t.reachedFaulted = true := by
  induction k generalizing s with
  | zero =>
    cases h
    exact hs
  | succ k ih =>
    obtain ⟨u, hstep, hrest⟩ := steps_succ_inv h
    exact ih hrest (step_keeps_reachedFaulted hstep hs)

/-- A fault entry is recorded. -/
theorem FaultEntry.reachedFaulted {s t : State} (h : FaultEntry s t) : t.reachedFaulted = true := by
  obtain ⟨r, -, -, htrace⟩ := h
  simp [State.reachedFaulted, htrace, Event.isFault]

/-- A step into `FAULTED` is a fault entry, or was taken in `FAULTED`. -/
theorem faultEntry_of_step {s t : State} (h : step s = .next t) (ht : t.seq = .faulted) :
    FaultEntry s t ∨ s.seq = .faulted := by
  rcases step_fault_cases h with hentry | ⟨-, hidle, -⟩ | ⟨-, hsame⟩
  · exact .inl hentry
  · cases ht.symm.trans hidle
  · exact .inr (hsame.mp ht)

/-- Settles O51: the step that enters `FAULTED` records it, and the rest of the run keeps the record. -/
theorem aRunThatReachesFaultedNeverEndsWell : Obligations.ARunThatReachesFaultedNeverEndsWell := by
  intro s t u k hs hstep ht hrun
  have hentry : FaultEntry s t := (faultEntry_of_step hstep ht).resolve_right hs
  have hrecord : u.reachedFaulted = true := steps_keep_reachedFaulted hrun hentry.reachedFaulted
  constructor
  · rintro ⟨-, -, -, -, hwell⟩
    cases hrecord.symm.trans hwell
  · rintro ⟨-, hclean, -⟩
    cases hrecord.symm.trans hclean

/-- Settles O52: a step keeps the record, and one that enters `FAULTED` makes it. -/
theorem theTraceShowsEveryFaultEntry : Obligations.TheTraceShowsEveryFaultEntry := by
  refine ⟨fun hf => Seq.noConfusion hf, fun s t h => ⟨step_keeps_reachedFaulted h, fun hs ht => ?_⟩⟩
  rcases faultEntry_of_step h ht with hentry | hfaulted
  · exact hentry.reachedFaulted
  · exact step_keeps_reachedFaulted h (hs hfaulted)

end Sys2Proof.Machine

/-! The invariant of the machine (R29, R30, R116, R120, R121, R136), kept by every step, and the end of every
command (R163). -/

namespace Sys2Proof.Machine

open Sys2Proof

/-! ## The invariant -/

/-- A length that passes the Write length check has a page (R121). -/
theorem zero_lt_pageCount {s : State} (hp : s.writePre = true) : 0 < pageCount s.cl := by
  obtain ⟨-, -, hne, hlow⟩ := State.writePre_iff.mp hp
  rw [BitVec.lt_def, pageCount_toNat]
  show 0 < s.cl.toNat / 256
  omega

/-- The next page index of a page before the last is no wrap, and below `NP` (R127). -/
theorem next_page_lt {s : State} (hlt : s.pi < s.np) (hl : s.lastPage = false) :
    (s.pi + 1).toNat = s.pi.toNat + 1 ∧ s.pi + 1 < s.np := by
  rw [BitVec.lt_def] at hlt
  rw [Bool.eq_false_iff, Ne, State.lastPage_iff] at hl
  have := s.np.isLt
  have hsucc : (s.pi + 1).toNat = s.pi.toNat + 1 := by
    rw [BitVec.toNat_add]
    show (s.pi.toNat + 1) % 2 ^ 8 = _
    omega
  rw [BitVec.lt_def, hsucc]
  exact ⟨rfl, by omega⟩

/-- Outside a Write there is nothing to keep. -/
theorem writeInv_of_not_write {s : State} (hwe : s.seq ≠ .wrWe) (hwp : s.seq ≠ .wrWp) : WriteInv s := by
  rintro (hs | hs)
  · exact absurd hs hwe
  · exact absurd hs hwp

/-- Outside a Read there is nothing to keep. -/
theorem readInv_of_not_read {s : State} (hsra : s.seq ≠ .rdSra) (hrx : s.seq ≠ .rdRx) : ReadInv s := by
  rintro (hs | hs)
  · exact absurd hs hsra
  · exact absurd hs hrx

/-- The handle presented with a command is null exactly when its `BP` is 0 (R111). -/
theorem State.presentedHandle_isSome (s : State) (bp : Bool) : (s.presentedHandle bp).isSome = bp := by
  cases bp <;> rfl

/-- The page that follows a page with a source keeps the invariant of the Write (R127). -/
theorem writeInv_sendWp {u : State} (hs : u.seq = .wrWp) (hb : u.bp = true) (hinv : WriteInv u) (a : Addr)
    (d : List Byte) : WriteInv (u.sendWp a d) := by
  obtain ⟨hpre, hnp, hpi, hsrc, -⟩ := hinv (.inr hs)
  cases hl : u.lastPage
  · rw [State.sendWp_next u a d hl]
    have hnull : u.bp = false → u.pi + 1 = 0 := fun h => by cases hb.symm.trans h
    exact fun _ => ⟨hpre, hnp, (next_page_lt hpi hl).2, hsrc, hnull⟩
  · rw [State.sendWp_last u a d hl]
    exact writeInv_of_not_write (by simp) (by simp)

/-- The block's step keeps the invariant of a Write. -/
theorem BlockCase.writeInv {u t : State} (h : BlockCase u t) (hinv : WriteInv u) : WriteInv t := by
  cases h with
  | wait | refused => exact hinv
  | writeStart w bp a l hs hc hd hp =>
    have hpages : 0 < pageCount l := State.latchWrite_cl u bp a l ▸ zero_lt_pageCount hp
    exact fun _ => ⟨hp, rfl, hpages, u.presentedHandle_isSome bp, fun _ => rfl⟩
  | nullLate hs | writeEnable hs => exact fun _ => by simpa [State.writePre] using hinv (.inl hs)
  | writePage hs hb => exact writeInv_sendWp hs hb hinv _ _
  | _ => exact writeInv_of_not_write (by simp) (by simp)

/-- The block's step keeps the invariant of a Read. -/
theorem BlockCase.readInv {u t : State} (h : BlockCase u t) (hinv : ReadInv u) : ReadInv t := by
  cases h with
  | wait | refused => exact hinv
  | readStart w bp a l hs hc hd hp => exact fun _ => ⟨hp, u.presentedHandle_isSome bp⟩
  | select hs => exact fun _ => hinv (.inl hs)
  | writePage =>
    refine readInv_of_not_read ?_ ?_ <;> rw [State.sendWp_seq] <;> split <;> simp
  | _ => exact readInv_of_not_read (by simp) (by simp)

/-- The block's step keeps the memory canonical. -/
theorem BlockCase.mem_wf {u t : State} (h : BlockCase u t) (hwf : u.mem.wf = true) : t.mem.wf = true := by
  rcases h.mem_cases with hkept | ⟨-, -, -, hwritten⟩
  · rw [hkept]
    exact hwf
  · rw [hwritten]
    exact Memory.wf_writeBytes _ _ hwf

/-- Settles O40: the block's step by the invariants it keeps; the host's steps touch no register of a command, and a
reset abandons it. -/
theorem everyStepKeepsTheInvariant : Obligations.EveryStepKeepsTheInvariant := by
  intro s t ⟨hfault, hwrite, hread, hmem⟩ h
  have hfault' := step_faultInv h hfault
  rcases step_cases h with
    ⟨u, hu, hb⟩ | ⟨w, hd, rest, -, -, rfl⟩ | ⟨rest, -, rfl⟩ | ⟨rest, -, rfl⟩ | ⟨a, b, rest, -, rfl⟩
  · obtain ⟨rest, rfl⟩ := blocksTurn_eq hu
    exact ⟨hfault', hb.writeInv hwrite, hb.readInv hread, hb.mem_wf hmem⟩
  · exact ⟨hfault', hwrite, hread, hmem⟩
  · exact ⟨hfault', writeInv_of_not_write (by simp) (by simp), readInv_of_not_read (by simp) (by simp), hmem⟩
  · split <;> exact ⟨hfault, hwrite, hread, hmem⟩
  · exact ⟨hfault', hwrite, hread, Memory.wf_set a b hmem⟩

/-- Settles O41: after power-on no command is in flight, and the memory is empty. -/
theorem powerOnStateHasTheInvariant : Obligations.PowerOnStateHasTheInvariant where
  fault := iff_of_false (fun h => h rfl) (fun h => by cases h)
  write := writeInv_of_not_write (by decide) (by decide)
  read := readInv_of_not_read (by decide) (by decide)
  mem := rfl

/-! ## Every command ends (R163) -/

/-- A command needs two steps for each page, and there are 255 pages at most (R13). -/
theorem State.stepsLeft_le (s : State) : s.stepsLeft ≤ 510 := by
  have := s.np.isLt
  unfold State.stepsLeft
  split <;> omega

/-- Each step of the block in the middle of a command brings it nearer to its end. -/
theorem BlockCase.stepsLeft_lt {u t : State} (h : BlockCase u t) (hinv : WriteInv u) (hidle : u.seq ≠ .idle) :
    t.stepsLeft < u.stepsLeft := by
  have hpages : u.seq = .wrWe ∨ u.seq = .wrWp → u.pi.toNat < u.np.toNat := fun hs => by
    obtain ⟨-, -, hpi, -⟩ := hinv hs
    exact hpi
  cases h with
  | wait hs | refused _ _ hs | init _ hs | writeStart _ _ _ _ hs | writeReject _ _ _ _ hs | readStart _ _ _ _ hs
  | readReject _ _ _ _ hs => exact absurd hs hidle
  | nullEarly hs =>
    have hlt := hpages (.inl hs)
    simp only [State.stepsLeft, hs, State.raise_seq]
    omega
  | nullLate hs | writeEnable hs =>
    have hlt := hpages (.inl hs)
    simp only [State.stepsLeft, hs, State.sendWe_seq, State.sendWe_np, State.sendWe_pi, State.tookNull_np,
      State.tookNull_pi]
    omega
  | nullSource hs | srcOverrun hs =>
    have hlt := hpages (.inr hs)
    simp only [State.stepsLeft, hs, State.raise_seq]
    omega
  | writePage hs =>
    have hlt := hpages (.inr hs)
    cases hl : u.lastPage
    · obtain ⟨hsucc, -⟩ := next_page_lt hlt hl
      rw [State.sendWp_next u _ _ hl]
      simp only [State.stepsLeft, hs, hsucc, State.transmit_np]
      omega
    · rw [State.sendWp_last u _ _ hl]
      simp only [State.stepsLeft, hs, State.complete_seq]
      omega
  | selectFails hs | select hs | nullDest hs | dstOverrun hs | receive hs => simp [State.stepsLeft, hs]

/-- The block's steps leave the host's list as it is (R19). -/
theorem BlockCase.host_eq {u t : State} (h : BlockCase u t) : t.host = u.host := by
  cases h with
  | init => simp
  | writePage => exact State.sendWp_host u _ _
  | _ => rfl

/-- A block left to itself takes a command to its end within the steps it still needs. -/
theorem steps_to_end {s : State} (hh : s.host = []) (hinv : WriteInv s) :
    ∃ k t, k ≤ s.stepsLeft ∧ steps k s = .next t ∧ (t.seq = .idle ∨ t.seq = .faulted) := by
  induction hn : s.stepsLeft using Nat.strong_induction_on generalizing s with
  | h n ih =>
    subst hn
    by_cases hend : s.seq = .idle ∨ s.seq = .faulted
    · exact ⟨0, s, Nat.zero_le _, rfl, hend⟩
    obtain ⟨hidle, hfaulted⟩ := not_or.mp hend
    obtain ⟨t, ht⟩ := blockStep_isNext hfaulted
    have hb := blockStep_cases ht
    have hless := hb.stepsLeft_lt hinv hidle
    obtain ⟨k, u, hk, hrun, hu⟩ := ih _ hless (hb.host_eq.trans hh) (hb.writeInv hinv) rfl
    exact ⟨k + 1, u, by omega, (steps_succ k ((step_of_host_nil hh).trans ht)).trans hrun, hu⟩

/-- Settles O50, by the steps a command still needs, which every step of the block makes fewer. -/
theorem everyCommandEnds : Obligations.EveryCommandEnds :=
  fun s hh hinv => ⟨s.stepsLeft_le, steps_to_end hh hinv⟩

end Sys2Proof.Machine

/-! A Read that proceeds (R136 to R141), and the obligation about the whole run. -/

namespace Sys2Proof.Machine

open Sys2Proof

/-- A READ that proceeds is accepted at its set-read-address step, its operands and destination latched (R111,
R136). -/
theorem step_read_start {s : State} {w : CmdWord} {a : Addr} {l : Len} (hh : s.host = []) (hs : s.seq = .idle)
    (hc : s.cmd = some w) (hd : decodeHost w = .ok (.read true a l)) (hp : (s.latchRead true a l).readPre = true) :
    step s = .next { s with cmd := none, ca := a, cl := l, bp := true, dst := some s.hnd, seq := .rdSra } := by
  rw [step_idle hh hs hc hd, exec_read_start hs hp]
  rfl

/-- The receive step of a Read whose destination holds the bytes asked for (R139 to R141). -/
theorem step_rdRx_receives {s : State} {h : Handle} (hh : s.host = []) (hs : s.seq = .rdRx) (hb : s.bp = true)
    (hdst : s.dst = some h) (hsize : s.cl.toNat ≤ h.size) :
    step s =
      .next { s with
        mem := s.mem.writeBytes h.base (s.rxBytes s.cl.toNat), status := some s.rxStatus, seq := .idle,
        rxAns := s.rxAns.tail, draws := s.draws + 1,
        trace := s.trace ++
          [.rx s.cfg.devAddr s.cl.toNat s.rxStatus (s.rxBytes s.cl.toNat), .done .read s.rxStatus] } := by
  rw [step_rdRx hh hs, receiveStep_receives hb (State.dstShort_eq_false hdst hsize), State.takeRx_eq, hdst]
  rfl

/-- From the set-read-address step on, a Read whose destination is long enough receives if the transmit is answered
`Ok` (R137 to R141). -/
theorem steps_rdSra_receives {s : State} {h : Handle} (hh : s.host = []) (hs : s.seq = .rdSra) (ha : s.txAnswer = .ok)
    (hb : s.bp = true) (hdst : s.dst = some h) (hsize : s.cl.toNat ≤ h.size) :
    let u := { s with txAns := s.txAns.tail, draws := s.draws + 1 }
    steps 2 s =
      .next { u with
        mem := s.mem.writeBytes h.base (u.rxBytes s.cl.toNat), status := some u.rxStatus, seq := .idle,
        rxAns := s.rxAns.tail, draws := s.draws + 2,
        trace := s.trace ++
          [.tx s.cfg.devAddr (encSRA s.ca) .ok, .rx s.cfg.devAddr s.cl.toNat u.rxStatus (u.rxBytes s.cl.toNat),
            .done .read u.rxStatus] } := by
  intro u
  refine Eq.trans (steps_succ 1 ((step_rdSra hh hs).trans (exec_frameSra_ok hs ha))) ?_
  refine Eq.trans (steps_succ 0 (step_rdRx_receives hh rfl hb hdst hsize)) ?_
  simp only [steps, List.append_assoc]
  rfl

/-- Settles O49: the Read is accepted, and its set-read-address step alone, or with the receive, follows. -/
theorem readSelectsThenReceives : Obligations.ReadSelectsThenReceives := by
  intro s w a l hh hs hc hd hpre hsize u
  let v : State := { s with cmd := none, ca := a, cl := l, bp := true, dst := some s.hnd, seq := .rdSra }
  have haccept : step s = .next v := step_read_start hh hs hc hd hpre
  have hidle : u.seq = .idle := hs
  refine ⟨fun ha => (steps_succ 1 haccept).trans ?notOk, fun ha => (steps_succ 2 haccept).trans ?ok⟩
  case notOk =>
    rw [steps_rdSra_notOk (s := v) hh rfl ha, ← hidle]
  case ok =>
    rw [steps_rdSra_receives (s := v) hh rfl ha rfl rfl hsize, ← hidle]
    rfl

end Sys2Proof.Machine

/-! The registers that R42 leaves unspecified are written before they are read: a step on a state and one on what
the state shows (`State.live`) show the same, and the obligation about it. -/

namespace Sys2Proof.Machine

open Sys2Proof

/-! ## What the steps of a command read, one sequencer state after the other -/

section
variable {u : State}

/-- What a state shows in `IDLE`. -/
theorem State.live_of_idle (hs : u.seq = .idle) :
    u.live = { u with ca := 0, cl := 0, bp := false, np := 0, pi := 0, wes := .ok, src := none, dst := none } := by
  simp only [State.live, hs]
  rfl

/-- What a state shows in `WR_WE`: `WES` is written by that step, and `DST` is of no Write. -/
theorem State.live_of_wrWe (hs : u.seq = .wrWe) : u.live = { u with wes := .ok, dst := none } := by
  simp only [State.live, hs]
  rfl

/-- What a state shows in `WR_WP`: `DST` is of no Write. -/
theorem State.live_of_wrWp (hs : u.seq = .wrWp) : u.live = { u with dst := none } := by
  simp only [State.live, hs]
  rfl

/-- What a state shows in `RD_SRA`: the registers of a Write are of no Read. -/
theorem State.live_of_rdSra (hs : u.seq = .rdSra) :
    u.live = { u with np := 0, pi := 0, wes := .ok, src := none } := by
  simp only [State.live, hs]
  rfl

/-- What a state shows in `RD_RX`: nor is `CA` read again. -/
theorem State.live_of_rdRx (hs : u.seq = .rdRx) :
    u.live = { u with ca := 0, np := 0, pi := 0, wes := .ok, src := none } := by
  simp only [State.live, hs]
  rfl

/-- Every state shows its sequencer state. -/
@[simp] theorem State.live_seq (u : State) : u.live.seq = u.seq := by
  cases hs : u.seq <;> simp only [State.live, hs]

@[simp] theorem State.live_fault (u : State) : u.live.fault = u.fault := by
  cases hs : u.seq <;> simp only [State.live, hs]

@[simp] theorem State.live_status (u : State) : u.live.status = u.status := by
  cases hs : u.seq <;> simp only [State.live, hs]

@[simp] theorem State.live_cmd (u : State) : u.live.cmd = u.cmd := by
  cases hs : u.seq <;> simp only [State.live, hs]

@[simp] theorem State.live_host (u : State) : u.live.host = u.host := by
  cases hs : u.seq <;> simp only [State.live, hs]

/-- What a state shows, it shows itself. -/
theorem State.live_live (u : State) : u.live.live = u.live := by
  cases hs : u.seq <;> simp only [State.live, hs]

/-- The first INIT sets up (R113). -/
theorem State.setUp_first {s : State} (h : s.init = false) : s.setUp = { s.emit .extInitSetup with init := true } := by
  simp [State.setUp, h]

/-- A later INIT passes over the set-up (R113). -/
theorem State.setUp_later {s : State} (h : s.init = true) : s.setUp = s := by
  simp [State.setUp, h]

/-- In `IDLE` an instruction latches the operands it reads (R111). -/
theorem liveOutcome_exec_idle {i : Instr} (hs : u.seq = .idle) (hi : turnOf i = .idle) :
    liveOutcome (exec i u.live) = liveOutcome (exec i u) := by
  rw [State.live_of_idle hs]
  cases i with
  | init =>
    rw [exec_init_idle hs, exec_init_idle (by exact hs)]
    obtain hinit | hinit := Bool.eq_false_or_eq_true u.init
    · rw [State.setUp_later (s := u.accept) hinit, State.setUp_later (by exact hinit)]
      rfl
    · rw [State.setUp_first (s := u.accept) hinit, State.setUp_first (by exact hinit)]
      rfl
  | write bp a l =>
    cases hp : (u.latchWrite bp a l).writePre
    · rw [exec_write_reject hs hp, exec_write_reject (by exact hs) (by exact hp)]
      rfl
    · rw [exec_write_start hs hp, exec_write_start (by exact hs) (by exact hp)]
      rfl
  | read bp a l =>
    cases hp : (u.latchRead bp a l).readPre
    · rw [exec_read_reject hs hp, exec_read_reject (by exact hs) (by exact hp)]
      rfl
    · rw [exec_read_start hs hp, exec_read_start (by exact hs) (by exact hp)]
      rfl
  | frameWe | frameWp | frameSra => cases hi

/-- In `IDLE` the block looks at the presented word alone (R110). -/
theorem liveOutcome_idleStep (hs : u.seq = .idle) : liveOutcome (idleStep u.live) = liveOutcome (idleStep u) := by
  cases hc : u.cmd with
  | none => simp only [idleStep, hc, State.live_cmd, liveOutcome, State.live_live]
  | some w =>
    simp only [idleStep, hc, State.live_cmd]
    cases hd : decodeHost w with
    | error r => simp only [liveOutcome, State.refuse, State.accept, State.live, hs]
    | ok i =>
      refine liveOutcome_exec_idle hs ?_
      rcases decodeHost_ok_cases hd with rfl | rfl | rfl <;> rfl

/-- The write-enable step reads neither `WES` nor `DST` (R122). -/
theorem liveOutcome_frameWe (hs : u.seq = .wrWe) :
    liveOutcome (exec .frameWe u.live) = liveOutcome (exec .frameWe u) := by
  rw [State.live_of_wrWe hs]
  cases ho : u.nullSourceOpen
  · rw [exec_frameWe hs ho, exec_frameWe (by exact hs) (by exact ho)]
    rfl
  · cases he : u.nullEarly
    · rw [exec_frameWe_late hs ho he, exec_frameWe_late (by exact hs) (by exact ho) (by exact he)]
      rfl
    · rw [exec_frameWe_early hs ho he, exec_frameWe_early (by exact hs) (by exact ho) (by exact he)]
      rfl

/-- The write-page step does not read `DST` (R125). -/
theorem liveOutcome_frameWp (hs : u.seq = .wrWp) :
    liveOutcome (exec (.frameWp u.live.target u.live.payload) u.live) =
      liveOutcome (exec (.frameWp u.target u.payload) u) := by
  rw [State.live_of_wrWp hs]
  have hd := u.payload_length
  obtain hb | hb := (Bool.eq_false_or_eq_true u.bp).symm
  · rw [exec_frameWp_null hs hd hb, exec_frameWp_null (by exact hs) (by exact hd) (by exact hb)]
    rfl
  cases ho : u.srcShort
  case true =>
    rw [exec_frameWp_short hs hd hb ho, exec_frameWp_short (by exact hs) (by exact hd) (by exact hb) (by exact ho)]
    rfl
  rw [exec_frameWp hs hd hb ho, exec_frameWp (by exact hs) (by exact hd) (by exact hb) (by exact ho)]
  cases hl : u.lastPage
  · rw [State.sendWp_next u _ _ hl, State.sendWp_next _ _ _ (by exact hl)]
    rfl
  · rw [State.sendWp_last u _ _ hl, State.sendWp_last _ _ _ (by exact hl)]
    rfl

/-- The set-read-address step reads no register of a Write (R137). -/
theorem liveOutcome_frameSra (hs : u.seq = .rdSra) :
    liveOutcome (exec (.frameSra u.live.ca) u.live) = liveOutcome (exec (.frameSra u.ca) u) := by
  rw [State.live_of_rdSra hs]
  cases ha : u.txAnswer
  · rw [exec_frameSra_ok hs ha, exec_frameSra_ok (by exact hs) (by exact ha)]
    rfl
  · rw [exec_frameSra_notOk hs ha, exec_frameSra_notOk (by exact hs) (by exact ha)]
    rfl

/-- The receive step reads neither `CA` nor a register of a Write (R139). -/
theorem live_receiveStep (hs : u.seq = .rdRx) : (receiveStep u.live).live = (receiveStep u).live := by
  rw [State.live_of_rdRx hs]
  obtain hb | hb := (Bool.eq_false_or_eq_true u.bp).symm
  · rw [receiveStep_null hb, receiveStep_null (by exact hb)]
    rfl
  cases ho : u.dstShort
  · rw [receiveStep_receives hb ho, receiveStep_receives (by exact hb) (by exact ho)]
    rfl
  · rw [receiveStep_short hb ho, receiveStep_short (by exact hb) (by exact ho)]
    rfl

end

/-! ## The whole step -/

/-- The block's step on what a state shows does what it does on the state. -/
theorem liveOutcome_blockStep (u : State) : liveOutcome (blockStep u.live) = liveOutcome (blockStep u) := by
  rw [blockStep, blockStep, State.live_seq, State.live_fault]
  split
  · next hs => exact liveOutcome_idleStep hs
  · next hs => exact liveOutcome_frameWe hs
  · next hs => exact liveOutcome_frameWp hs
  · next hs => exact liveOutcome_frameSra hs
  · next hs => exact congrArg Host.Outcome.next (live_receiveStep hs)
  · rfl

/-- What a state shows does not depend on the host's list. -/
theorem State.live_with_host (s : State) (rest : List HostAction) :
    { s.live with host := rest } = { s with host := rest }.live := by
  cases hs : s.seq <;> simp only [State.live, hs]

/-- The host's action on what a state shows does what it does on the state. -/
theorem live_hostAct (a : HostAction) (s : State) : (hostAct a s.live).live = (hostAct a s).live := by
  cases a with
  | present | reset | poke => cases hs : s.seq <;> simp only [hostAct, State.doReset, State.live, hs]
  | readStatus =>
    simp only [hostAct, State.live_status]
    split
    · cases hs : s.seq <;> simp only [State.refuse, State.live, hs]
    · exact s.live_live
  | yield => exact s.live_live

/-- The host's step on what a state shows does what it does on the state. -/
theorem live_hostStep (s : State) : (hostStep s.live).live = (hostStep s).live := by
  simp only [hostStep, State.live_host]
  split
  · exact s.live_live
  · next a rest _ => rw [State.live_with_host, live_hostAct]

/-- Whose turn it is depends on what a state shows alone. -/
theorem blocksTurn_live (s : State) : blocksTurn s.live = (blocksTurn s).map State.live := by
  simp only [blocksTurn, State.live_host]
  split
  · rfl
  · exact congrArg some (s.live_with_host _)
  · rw [State.live_cmd]
    split <;> rfl
  all_goals rfl

/-- A step on what a state shows does what it does on the state, as far as that shows. -/
theorem liveOutcome_step_live (s : State) : liveOutcome (step s.live) = liveOutcome (step s) := by
  rw [step, step, wholeStep, wholeStep, blocksTurn_live]
  cases blocksTurn s with
  | none => exact congrArg Host.Outcome.next (live_hostStep s)
  | some u => exact liveOutcome_blockStep u

/-- Settles O47: each of the two steps shows what the step on the state they both show does. -/
theorem unspecifiedRegistersAreUnobservable : Obligations.UnspecifiedRegistersAreUnobservable := by
  intro s t h
  calc liveOutcome (step s) = liveOutcome (step s.live) := (liveOutcome_step_live s).symm
    _ = liveOutcome (step t.live) := by rw [h]
    _ = liveOutcome (step t) := liveOutcome_step_live t

end Sys2Proof.Machine
